-- ==== Sys2Proof/Word.lean ====
section
/-! DEFINITION. The widths of the block: 8-bit channels and frame bytes, 24-bit channel-ordered words, 32-bit command
words (00_scope R5, R6). -/

namespace Sys2Proof

/-- `u8` (00_scope R9): one colour channel, and one byte of a frame. -/
abbrev Byte := BitVec 8

/-- `u24`: a packed colour `0xRRGGBB`, and a channel-ordered word (00_scope R5). -/
abbrev Word24 := BitVec 24

/-- One command word, `CMD_W = 32` (00_scope R6, 30_encoding R45); also a timing value, `TIM_W = 32`. -/
abbrev Word := BitVec 32

end Sys2Proof
end

