-- ==== Sys2Proof/Syntax.lean ====
section
/-! DEFINITION. The thirteen commands of 30_encoding R50, with the operands of R46 as they arrive: whole operand words,
the 3-bit `ord`, the one-bit `flag`.  SETLED and SETLEDM (R56) are other spellings of SETPX and SETPXM. -/

namespace Sys2Proof

/-- One command.  `ord` keeps all eight codes, since codes 6 and 7 "decode (they are not an illegal encoding)" (R49);
a colour word `cw` keeps its 32 bits, and `Instr.wellFormed` says which of them must be zero (R48). -/
inductive Instr where
  /-- `create(numElements, channelOrder)`, 41_buffer_commands R86. -/
  | create (ord : BitVec 3) (numElements : Word)
  /-- `setPixel`, packed colour, R87. -/
  | setpxP (index cw : Word)
  /-- `setPixel`, three-channel struct, R88. -/
  | setpxC (index cw : Word)
  /-- `setPixel`, four-channel struct, R89. -/
  | setpxA (index cw : Word)
  /-- `setPixelAtMatrixPosition`, packed colour, R90. -/
  | setpxmP (x y rowWidth cw : Word)
  /-- `setPixelAtMatrixPosition`, three-channel struct, R91. -/
  | setpxmC (x y rowWidth cw : Word)
  /-- `setPixelAtMatrixPosition`, four-channel struct, R92. -/
  | setpxmA (x y rowWidth cw : Word)
  /-- Write `optimizedAnimationMode`, R94. -/
  | setopt (flag : Bool)
  /-- `encode(buffer) -> byteStream`, 42_encode_serializer R100. -/
  | encode
  /-- Driver Facade construction, 43_facade_adapter R111. -/
  | init (ord : BitVec 3) (numElements dutyZero dutyOne frequency resetDelay : Word)
  /-- `start`, R112. -/
  | start
  /-- `wait`, R113. -/
  | wait
  /-- `cleanup`, R114. -/
  | cleanup
  deriving DecidableEq, Repr

end Sys2Proof
end

