-- ==== Sys2Proof/WellFormed.lean ====
section
/-! DEFINITION. Which terms of `Instr` are legal encodings.  The only constraint left after R46's fields is the colour
word's reserved byte (30_encoding R48, R52 (b)). -/

namespace Sys2Proof

/-- `cw[31:24]` "must be 0x00" for a packed or three-channel colour word (30_encoding R48). -/
def highByteClear (cw : Word) : Bool := cw.extractLsb' 24 8 == 0#8

/-- A command that some command words stand for (30_encoding R52: every encoding "either is one of the thirteen
commands or is illegal"). -/
def Instr.wellFormed : Instr → Bool
  | .create _ _ => true
  | .setpxP _ cw => highByteClear cw
  | .setpxC _ cw => highByteClear cw
  | .setpxA _ _ => true
  | .setpxmP _ _ _ cw => highByteClear cw
  | .setpxmC _ _ _ cw => highByteClear cw
  | .setpxmA _ _ _ _ => true
  | .setopt _ => true
  | .encode => true
  | .init _ _ _ _ _ _ => true
  | .start => true
  | .wait => true
  | .cleanup => true

end Sys2Proof
end

