-- ==== Sys2Proof/Decode.lean ====
section
/-! DEFINITION. From command words to commands and back (30_encoding R45 to R53).  A command word is a 32-bit unit on a
32-bit port and has no byte order (R45); so the decoder reads a list of words. -/

namespace Sys2Proof

/-- The six formats of 30_encoding R46. -/
inductive Format where
  | z | f | c | p | m | i
  deriving DecidableEq, Repr

/-- The column "Words" of R46 and R50. -/
def Format.words : Format → Nat
  | .z => 1
  | .f => 1
  | .c => 2
  | .p => 3
  | .m => 5
  | .i => 6

/-- Which of the thirteen rows of R50 a header selects. -/
inductive Opcode where
  | create | setpxP | setpxC | setpxA | setpxmP | setpxmC | setpxmA | setopt | encode | init | start | wait | cleanup
  deriving DecidableEq, Repr

/-- One row of the opcode map, R50: "a header `h` selects the row iff `h & mask = match`". -/
structure Row where
  op : Opcode
  format : Format
  pattern : Word
  mask : Word
  deriving DecidableEq, Repr

/-- R50: the row's test on a header. -/
def Row.selects (r : Row) (h : Word) : Bool := h &&& r.mask == r.pattern

/-- The opcode map of 30_encoding R50, row by row. -/
def opcodeTable : List Row :=
  [ ⟨.create,  .c, 0x01000000#32, 0xFFFFFFF8#32⟩,
    ⟨.setpxP,  .p, 0x02000000#32, 0xFFFFFFFF#32⟩,
    ⟨.setpxC,  .p, 0x02000001#32, 0xFFFFFFFF#32⟩,
    ⟨.setpxA,  .p, 0x02000002#32, 0xFFFFFFFF#32⟩,
    ⟨.setpxmP, .m, 0x03000000#32, 0xFFFFFFFF#32⟩,
    ⟨.setpxmC, .m, 0x03000001#32, 0xFFFFFFFF#32⟩,
    ⟨.setpxmA, .m, 0x03000002#32, 0xFFFFFFFF#32⟩,
    ⟨.setopt,  .f, 0x04000000#32, 0xFFFFFFFE#32⟩,
    ⟨.encode,  .z, 0x05000000#32, 0xFFFFFFFF#32⟩,
    ⟨.init,    .i, 0x10000000#32, 0xFFFFFFF8#32⟩,
    ⟨.start,   .z, 0x11000000#32, 0xFFFFFFFF#32⟩,
    ⟨.wait,    .z, 0x12000000#32, 0xFFFFFFFF#32⟩,
    ⟨.cleanup, .z, 0x13000000#32, 0xFFFFFFFF#32⟩ ]

/-- The row a header selects, if any (R50; the rows are mutually exclusive). -/
def selectRow (h : Word) : Option Row := opcodeTable.find? (·.selects h)

/-- R51: the length of a command in words, "decided by the header alone"; a header that selects no row has length 1. -/
def commandLength (h : Word) : Nat :=
  match selectRow h with
  | some r => r.format.words
  | none => 1

/-- `h[2:0]`, the Channel Order code of formats C and I (R46, R47). -/
def ordField (h : Word) : BitVec 3 := h.extractLsb' 0 3

/-- `sub[0]`, the flag of format F (R46, R47). -/
def flagField (h : Word) : Bool := h.getLsbD 0

/-- What the decoder reads from the front of the command stream. -/
inductive Decoded where
  /-- A whole legal command, and the words after it. -/
  | ok (i : Instr) (rest : List Word)
  /-- R52 (a): the header `h` selects no row; one word is consumed. -/
  | badHeader (h : Word) (rest : List Word)
  /-- R52 (b): the colour word `cw` has a reserved bit set; the full length is consumed. -/
  | badColour (cw : Word) (rest : List Word)
  /-- R53: the stream ends before the command does (or is empty); nothing is consumed. -/
  | incomplete
  deriving DecidableEq, Repr

/-- R48, R52 (b): a packed or three-channel colour word with `cw[31:24] != 0` is refused. -/
def checkColour (cw : Word) (i : Instr) (rest : List Word) : Decoded :=
  if cw.extractLsb' 24 8 = 0#8 then .ok i rest else .badColour cw rest

/-- The operand words of a command whose header `h` selected the row of `op` (R46). -/
def decodeOperands (op : Opcode) (h : Word) (ws : List Word) : Decoded :=
  match op with
  | .create =>
    match ws with
    | n :: rest => .ok (.create (ordField h) n) rest
    | _ => .incomplete
  | .setpxP =>
    match ws with
    | index :: cw :: rest => checkColour cw (.setpxP index cw) rest
    | _ => .incomplete
  | .setpxC =>
    match ws with
    | index :: cw :: rest => checkColour cw (.setpxC index cw) rest
    | _ => .incomplete
  | .setpxA =>
    match ws with
    | index :: cw :: rest => .ok (.setpxA index cw) rest
    | _ => .incomplete
  | .setpxmP =>
    match ws with
    | x :: y :: w :: cw :: rest => checkColour cw (.setpxmP x y w cw) rest
    | _ => .incomplete
  | .setpxmC =>
    match ws with
    | x :: y :: w :: cw :: rest => checkColour cw (.setpxmC x y w cw) rest
    | _ => .incomplete
  | .setpxmA =>
    match ws with
    | x :: y :: w :: cw :: rest => .ok (.setpxmA x y w cw) rest
    | _ => .incomplete
  | .setopt => .ok (.setopt (flagField h)) ws
  | .encode => .ok .encode ws
  | .init =>
    match ws with
    | n :: dz :: d1 :: f :: rd :: rest => .ok (.init (ordField h) n dz d1 f rd) rest
    | _ => .incomplete
  | .start => .ok .start ws
  | .wait => .ok .wait ws
  | .cleanup => .ok .cleanup ws

/-- The decoder: total on any list of words.  No mode bit changes it (R51). -/
def decode : List Word → Decoded
  | [] => .incomplete
  | h :: ws =>
    match selectRow h with
    | none => .badHeader h ws
    | some r => decodeOperands r.op h ws

/-- A header from its three fields, R45: `op` in `[31:24]`, `rsv = 0` in `[23:8]`, `sub` in `[7:0]`. -/
def header (op sub : BitVec 8) : Word := op ++ 0#16 ++ sub

/-- The command words of a command, from the formats of R46 and the opcodes and sub-fields of R50. -/
def encode : Instr → List Word
  | .create ord n => [header 0x01#8 (0#5 ++ ord), n]
  | .setpxP index cw => [header 0x02#8 0x00#8, index, cw]
  | .setpxC index cw => [header 0x02#8 0x01#8, index, cw]
  | .setpxA index cw => [header 0x02#8 0x02#8, index, cw]
  | .setpxmP x y w cw => [header 0x03#8 0x00#8, x, y, w, cw]
  | .setpxmC x y w cw => [header 0x03#8 0x01#8, x, y, w, cw]
  | .setpxmA x y w cw => [header 0x03#8 0x02#8, x, y, w, cw]
  | .setopt flag => [header 0x04#8 (0#7 ++ BitVec.ofBool flag)]
  | .encode => [header 0x05#8 0x00#8]
  | .init ord n dz d1 f rd => [header 0x10#8 (0#5 ++ ord), n, dz, d1, f, rd]
  | .start => [header 0x11#8 0x00#8]
  | .wait => [header 0x12#8 0x00#8]
  | .cleanup => [header 0x13#8 0x00#8]

/-- The six command words of an instruction given as one number: word `k` is bits `32*k + 31 .. 32*k`, the header first,
and every bit at or above `nbits` is 0 (the host's numbering of spec/opcode_table.json; the longest command has six
words, R45). -/
def tableWords (nbits w : Nat) : List Word :=
  (List.range 6).map fun k => BitVec.ofNat 32 ((w % 2 ^ nbits) >>> (32 * k))

/-- The instruction the decoder reads from a row of the opcode table given as a number. -/
def decodeTableWord (nbits w : Nat) : Option Instr :=
  match decode (tableWords nbits w) with
  | .ok i _ => some i
  | _ => none

end Sys2Proof
end

