-- ==== Sys2Proof/Config.lean ====
section
/-! DEFINITION. The parameters the spec leaves open (00_scope R6; 92_eei_decisions, "Open parameters in one place").
The third open parameter, the adapter oracle, is data of the state (`Machine.Adapter`). -/

namespace Sys2Proof

/-- The implementation's own constants.  R6: "model takes it as an argument"; a step never changes it.
The bound `0 <= N_MAX <= 715827882` of R6 is in the type. -/
structure Config where
  /-- `N_MAX`, the largest `numElements` the buffer storage supports. -/
  nMax : Fin 715827883
  deriving DecidableEq, Repr

/-- `AdpSignal` (00_scope R6, 92 D22): the failure signal of an adapter call, "opaque to the block".
DESIGN CHOICE (log 2): a token; the block copies it and never looks inside. -/
structure AdpSignal where
  token : Nat
  deriving DecidableEq, Repr

/-- The largest machine R6 allows, `N_MAX = 715827882`; the value `State.reset` takes.  DESIGN CHOICE (log 1), unsafe. -/
def Config.largest : Config := ⟨⟨715827882, by decide⟩⟩

end Sys2Proof
end

