-- ==== Sys2Proof/Machine/State.lean ====
section
/-! DEFINITION. What the machine holds: the block's registers (10_state R10), its transients, its ports' transactions
(92 D23), and the two agents it deals with as plain data (00_scope R4).  INVENTORY.md lists each field with its rule and
reset value. -/

namespace Sys2Proof.Machine

/-- `LIFE` (10_state R11); code 3 "is never written by any rule". -/
inductive Life where
  | empty | core | facade
  deriving DecidableEq, Repr

/-- `ORD` (10_state R13, 30_encoding R49); codes 6 and 7 "are never stored". -/
inductive ChannelOrder where
  | rgb | rbg | grb | gbr | brg | bgr
  deriving DecidableEq, Repr

/-- A Pixel Color, the value of one slot (10_state R15): exactly three cases. -/
inductive PixelColor where
  | packed (v : Word24)
  | rgb (r g b : Byte)
  | rgba (r g b a : Byte)
  deriving DecidableEq, Repr

/-- An Encoded Byte Stream, byte 0 first (20_memory R32). -/
abbrev Frame := List Byte

/-- The slot space as data: (index, colour) pairs in one canonical form, indices strictly rising and no entry black,
which is what an unlisted index reads as (`Memory.blank`, `Memory.wf`, in Ops.lean). -/
abbrev Memory := List (Nat × PixelColor)

/-- The causes of 60_exceptions R136; `FAULT` is one of them or 0 (10_state R18; 93 U16 allows this type). -/
inductive Cause where
  | boundsViolation | configError | illegalCommand | illegalState | adapterFailure
  deriving DecidableEq, Repr

/-- A cause together with the `info` value 60_exceptions R136 gives it. -/
inductive Err where
  /-- `info`: the final index. -/
  | boundsViolation (index : Int)
  /-- `info`: the offending operand value. -/
  | configError (value : Int)
  /-- `info`: the offending word. -/
  | illegalCommand (word : Word)
  /-- `info`: the value of `LIFE`. -/
  | illegalState (life : Life)
  /-- `info`: the adapter's signal. -/
  | adapterFailure (sig : AdpSignal)
  deriving DecidableEq, Repr

/-- The response to a command (00_scope R7). -/
inductive Response where
  | ok
  | err (e : Err)
  deriving DecidableEq, Repr

/-- The five arguments of `configurePattern`, in the source's order (43_facade_adapter R121). -/
structure Pattern where
  byteCount : Nat
  frequency : Word
  resetDelay : Word
  dutyZero : Word
  dutyOne : Word
  deriving DecidableEq, Repr

/-- The five calls of the ADP port (43_facade_adapter R120 to R124); `initialise` is the spec's `initialize()`. -/
inductive AdpCall where
  | initialise
  | configurePattern (p : Pattern)
  | send (bytes : Frame)
  | awaitCompletion
  | teardown
  deriving DecidableEq, Repr

/-- What leaves the block: a response on RSP, a frame on OUT, a call on ADP (92 D23). -/
inductive Event where
  | response (r : Response)
  | frame (f : Frame)
  | call (c : AdpCall)
  deriving DecidableEq, Repr

/-- An adapter's answer to one call (43_facade_adapter R119): "An answer is `ok` or `fail(sig)`". -/
inductive AdpAnswer where
  | ok
  | fail (sig : AdpSignal)
  deriving DecidableEq, Repr

/-- What an oracle does with one `awaitCompletion()`: it answers, or, the one call that may never return, it does not
(43_facade_adapter R113; 93 U3: "A model using another oracle must allow `stuck`"). -/
inductive Completion where
  | answered (a : AdpAnswer)
  | never
  deriving DecidableEq, Repr

/-- The state of the reference adapter (43_facade_adapter R126). -/
structure RefAdapter where
  inited : Bool
  configured : Bool
  torn : Bool
  /-- The five arguments `configurePattern` recorded. -/
  pattern : Option Pattern
  inflight : Option Frame
  /-- The frames whose transmission completed, oldest first. -/
  log : List Frame
  deriving DecidableEq, Repr

/-- The Transmitter Adapter as the block meets it (00_scope R4, 92 D22). -/
inductive Adapter where
  /-- An oracle: its coming answers to `initialize`, `configurePattern`, `send` and `teardown`, one for each call, and its
  coming answers to `awaitCompletion`. -/
  | oracle (answers : List AdpAnswer) (completions : List Completion)
  /-- The reference adapter of R126, with the answers it gives in place of its `ok`, one for each call it accepts. -/
  | reference (r : RefAdapter) (answers : List AdpAnswer)
  deriving DecidableEq, Repr

/-- Where the frame of a serialization goes: ENCODE's to the OUT port, START's to the adapter (92 D21). -/
inductive Destination where
  | out
  | adapter
  deriving DecidableEq, Repr

/-- Where the block stands: between commands, inside WAIT's call (60_exceptions R149), or at one of the finer-grained
places inside a command that a reset can find it in (42_encode_serializer R105, 93 U18). -/
inductive PortState where
  /-- Between commands: the next command word may be taken. -/
  | ready
  /-- Inside an `awaitCompletion()` that the adapter never answers: only reset ends it. -/
  | unanswered
  /-- Inside an `awaitCompletion()` that the reference adapter holds until its transmission completes. -/
  | holding
  /-- Inside an ENCODE or START, between two micro-steps of R105: `scan` bytes of the frame stand. -/
  | serializing (d : Destination)
  /-- Inside an ENCODE, its frame emitted and its response not yet given. -/
  | delivered
  /-- Inside INIT, START, WAIT or CLEANUP: the call `c` is issued, the adapter has answered it with `a`, and the block has
  not yet taken the answer.  DESIGN CHOICE (log 4): the adapter acts on a call the moment it is issued, so that a reset here
  finds the adapter as the call left it. -/
  | calling (c : AdpCall) (a : AdpAnswer)
  deriving DecidableEq, Repr

/-- What comes from outside, in order: a command word and an asserted reset from the host (43_facade_adapter R127), and
the adapter's own step `complete` (00_scope R4 (3), 43_facade_adapter R126); and a step of the block's own inside a command,
`tick`, which is how a reset or an adapter step comes to stand between two of them (42_encode_serializer R105). -/
inductive Input where
  | word (w : Word)
  | reset
  | complete
  | tick
  deriving DecidableEq, Repr

/-- The machine. -/
structure State where
  /-- `LIFE` (10_state R11). -/
  life : Life
  /-- `NUM`, the number of slots (10_state R12). -/
  num : Nat
  /-- `ORD` (10_state R13). -/
  ord : ChannelOrder
  /-- `OPT`, the `optimizedAnimationMode` flag (10_state R16). -/
  opt : Bool
  /-- The slot array `x` (10_state R14). -/
  slots : Memory
  /-- `T_ZERO` (10_state R17). -/
  tZero : Word
  /-- `T_ONE` (10_state R17). -/
  tOne : Word
  /-- `T_FREQ` (10_state R17). -/
  tFreq : Word
  /-- `T_RESET` (10_state R17). -/
  tReset : Word
  /-- `FAULT` (10_state R18), `none` for code 0. -/
  fault : Option Cause
  /-- `scan`, the serializer's position, 0 between commands (10_state R21). -/
  scan : Nat
  /-- The frame of an ENCODE or START, its first `scan` bytes; none between commands (42_encode_serializer R100, R105). -/
  frame : Frame
  /-- Whether the block is between commands or inside one (60_exceptions R149, 42_encode_serializer R105). -/
  port : PortState
  /-- Everything the block has emitted, oldest first (70_reset_and_hazards R173). -/
  trace : List Event
  /-- The command stream and the reset input, not yet consumed (20_memory R43). -/
  inputs : List Input
  /-- The Transmitter Adapter. -/
  adapter : Adapter
  /-- The implementation's parameters; no step changes them (00_scope R6). -/
  cfg : Config
  deriving DecidableEq, Repr

/-- A machine stop by a fault.  There is none: a fault of this hardware is a response, after which "the block is ready
for the next command at once" (60_exceptions R144, R145). -/
inductive Fault
  deriving DecidableEq, Repr

/-- Why the model has no meaning for what comes next. -/
inductive Refusal where
  /-- Raised by `exec` for an instruction that has no meaning yet; safe. -/
  | notModelled (mnemonic : String)
  /-- Raised by INIT, START, WAIT and CLEANUP where the reference adapter refuses the call `c`: "Every refuse marks a
  call order that the source makes callers responsible for avoiding" (43_facade_adapter R126); safe. -/
  | adapterOrder (c : AdpCall)
  deriving DecidableEq, Repr

/-- The outcome of a step of this machine. -/
abbrev Out := Host.Outcome State Fault Refusal

/-- The reference adapter at its start (43_facade_adapter R126). -/
def RefAdapter.start : RefAdapter :=
  { inited := false, configured := false, torn := false, pattern := none, inflight := none, log := [] }

/-- The machine right after reset (10_state R22): the block's registers as R22 gives them, nothing presented yet, nothing
emitted.  DESIGN CHOICE: the adapter beside it is the reference adapter at its start (log 3) and `N_MAX` the largest R6
allows (log 1). -/
def State.reset : State :=
  { life := .empty, num := 0, ord := .rgb, opt := false, slots := [],
    tZero := 0#32, tOne := 0#32, tFreq := 0#32, tReset := 0#32,
    fault := none, scan := 0, frame := [], port := .ready, trace := [], inputs := [],
    adapter := .reference RefAdapter.start [],
    cfg := Config.largest }

end Sys2Proof.Machine
end

