-- ==== Sys2Proof/Machine/Adapter.lean ====
section
/-! DEFINITION. What the Transmitter Adapter does with a call, as far as the block can tell (43_facade_adapter R119), and
the reference adapter of R126.  Nothing here says how a real adapter behaves: the coming answers may be any lists, and the
`complete` steps may stand anywhere in the inputs (92 D22). -/

namespace Sys2Proof.Machine

/-- The reference adapter's rule for one call (43_facade_adapter R126). -/
inductive RefResult where
  /-- It answers `ok` and goes to this state. -/
  | ok (r : RefAdapter)
  /-- It holds the call until its transmission completes. -/
  | hold
  /-- It refuses: the caller is responsible for avoiding this call order. -/
  | refuse
  deriving DecidableEq, Repr

/-- 43_facade_adapter R126, call by call. -/
def RefAdapter.call (r : RefAdapter) (c : AdpCall) : RefResult :=
  match c with
  | .initialise =>
    if r.inflight = none then .ok { r with inited := true, configured := false, torn := false } else .refuse
  | .configurePattern p =>
    if r.inited ∧ ¬ r.torn then .ok { r with pattern := some p, configured := true } else .refuse
  | .send f =>
    if r.configured ∧ ¬ r.torn ∧ r.inflight = none ∧ r.pattern.map Pattern.byteCount = some f.length then
      .ok { r with inflight := some f }
    else .refuse
  | .awaitCompletion =>
    if r.torn then .refuse else if r.inflight = none then .ok r else .hold
  | .teardown =>
    if r.inflight = none ∧ ¬ r.torn then .ok { r with torn := true } else .refuse

/-- The adapter's own step `complete` (43_facade_adapter R126): enabled iff a frame is in flight. -/
def RefAdapter.complete (r : RefAdapter) : RefAdapter :=
  match r.inflight with
  | some f => { r with log := r.log ++ [f], inflight := none }
  | none => r

/-- What the block gets back for one call, with the adapter as it stands afterwards. -/
inductive AdpResult where
  | ok (a : Adapter)
  | fail (sig : AdpSignal) (a : Adapter)
  /-- No answer, ever; only for `awaitCompletion`. -/
  | unanswered (a : Adapter)
  /-- No answer before the transmission completes; only for `awaitCompletion`. -/
  | hold (a : Adapter)
  | refuse
  deriving DecidableEq, Repr

/-- The next answer of the list, `ok` when it is used up (log 4), which leaves the adapter `onOk` or, after a failure,
`onFail` with the answers that remain. -/
def answerFrom (answers : List AdpAnswer) (onOk onFail : List AdpAnswer → Adapter) : AdpResult :=
  match answers with
  | [] => .ok (onOk [])
  | .ok :: rest => .ok (onOk rest)
  | .fail sig :: rest => .fail sig (onFail rest)

/-- The oracle's next answer to an `awaitCompletion`, `ok` when the list is used up (log 4). -/
def awaitOracle (answers : List AdpAnswer) (completions : List Completion) : AdpResult :=
  match completions with
  | [] => .ok (.oracle answers [])
  | .answered .ok :: rest => .ok (.oracle answers rest)
  | .answered (.fail sig) :: rest => .fail sig (.oracle answers rest)
  | .never :: rest => .unanswered (.oracle answers rest)

/-- One call.  An oracle answers every call but `awaitCompletion` (92 D22; 70_reset_and_hazards R172).  The reference
adapter goes by its own rule: what it refuses stays refused, and where it would answer `ok`, "The oracle may in addition
answer `fail(sig)` to any call in place of `ok`, with no change of adapter state" (R126). -/
def Adapter.call (a : Adapter) (c : AdpCall) : AdpResult :=
  match a with
  | .oracle answers completions =>
    match c with
    | .awaitCompletion => awaitOracle answers completions
    | .initialise => answerFrom answers (.oracle · completions) (.oracle · completions)
    | .configurePattern _ => answerFrom answers (.oracle · completions) (.oracle · completions)
    | .send _ => answerFrom answers (.oracle · completions) (.oracle · completions)
    | .teardown => answerFrom answers (.oracle · completions) (.oracle · completions)
  | .reference r answers =>
    match r.call c with
    | .ok r' => answerFrom answers (.reference r') (.reference r)
    | .hold => .hold (.reference r answers)
    | .refuse => .refuse

/-- The adapter's own step; the inside of an adapter that is only an oracle is not modelled (00_scope R4). -/
def Adapter.complete (a : Adapter) : Adapter :=
  match a with
  | .oracle answers completions => .oracle answers completions
  | .reference r answers => .reference r.complete answers

/-- Whether a transmission of the reference adapter is under way. -/
def Adapter.sending (a : Adapter) : Bool :=
  match a with
  | .oracle _ _ => false
  | .reference r _ => r.inflight.isSome

/-- Whether the adapter is the reference adapter. -/
def Adapter.isReference (a : Adapter) : Bool :=
  match a with
  | .oracle _ _ => false
  | .reference _ _ => true

end Sys2Proof.Machine
end

