-- ==== Sys2Proof/Machine/Flags.lean ====
section
/-! DEFINITION. The codes of the small registers and the two flag rules: `FAULT` (60_exceptions R140) and the value a
constructor gives `OPT` (10_state R16).  `OPT` is "the only mode flag of the block; there are no condition codes". -/

namespace Sys2Proof.Machine

/-- The code of `LIFE` (10_state R11). -/
def Life.code : Life → BitVec 2
  | .empty => 0#2
  | .core => 1#2
  | .facade => 2#2

/-- The code of a fault cause (60_exceptions R136). -/
def Cause.code : Cause → BitVec 3
  | .boundsViolation => 1#3
  | .configError => 2#3
  | .illegalCommand => 3#3
  | .illegalState => 4#3
  | .adapterFailure => 5#3

/-- The code of a Channel Order (30_encoding R49). -/
def ChannelOrder.code : ChannelOrder → BitVec 3
  | .rgb => 0#3
  | .rbg => 1#3
  | .grb => 2#3
  | .gbr => 3#3
  | .brg => 4#3
  | .bgr => 5#3

/-- The Channel Order an `ord` operand names; codes 6 and 7 are unrecognised (30_encoding R49). -/
def ChannelOrder.ofCode (c : BitVec 3) : Option ChannelOrder :=
  match c.toNat with
  | 0 => some .rgb
  | 1 => some .rbg
  | 2 => some .grb
  | 3 => some .gbr
  | 4 => some .brg
  | 5 => some .bgr
  | _ => none

/-- The cause of a raised error (60_exceptions R136). -/
def Err.cause : Err → Cause
  | .boundsViolation _ => .boundsViolation
  | .configError _ => .configError
  | .illegalCommand _ => .illegalCommand
  | .illegalState _ => .illegalState
  | .adapterFailure _ => .adapterFailure

/-- 60_exceptions R140: "if FAULT = 0 then FAULT <- c"; a first cause is never overwritten. -/
def stickyFault (fault : Option Cause) (c : Cause) : Option Cause :=
  match fault with
  | none => some c
  | some first => some first

/-- The status output `fault_cause[2:0]`, driven by `FAULT` (10_state R18). -/
def State.faultCause (s : State) : BitVec 3 :=
  match s.fault with
  | none => 0#3
  | some c => c.code

/-- The value CREATE and INIT give `OPT` (10_state R16, 92 D12). -/
def optAfterConstruction : Bool := false

end Sys2Proof.Machine
end

