-- ==== Sys2Proof/Machine/Operands.lean ====
section
/-! DEFINITION. Operand assembly (30_encoding R47, R48), Matrix Addressing (41_buffer_commands R93), and the slot layout of
10_state R15. -/

namespace Sys2Proof.Machine

/-- A signed operand word: `sext_32(w)` as an `int` (30_encoding R47). -/
def signed (w : Word) : Int := w.toInt

/-- `cw[31:24]`: alpha, or the byte that must be zero (30_encoding R48). -/
def highByte (cw : Word) : Byte := cw.extractLsb' 24 8

/-- `cw[23:16]` (30_encoding R48). -/
def redByte (cw : Word) : Byte := cw.extractLsb' 16 8

/-- `cw[15:8]` (30_encoding R48). -/
def greenByte (cw : Word) : Byte := cw.extractLsb' 8 8

/-- `cw[7:0]` (30_encoding R48). -/
def blueByte (cw : Word) : Byte := cw.extractLsb' 0 8

/-- `ctag = 0`: `PACKED(cw[23:0])` (30_encoding R48). -/
def packedColor (cw : Word) : PixelColor := .packed (cw.extractLsb' 0 24)

/-- `ctag = 1`: `RGB(cw[23:16], cw[15:8], cw[7:0])` (30_encoding R48). -/
def structColor (cw : Word) : PixelColor := .rgb (redByte cw) (greenByte cw) (blueByte cw)

/-- `ctag = 2`: `RGBA(cw[23:16], cw[15:8], cw[7:0], cw[31:24])` (30_encoding R48). -/
def alphaColor (cw : Word) : PixelColor := .rgba (redByte cw) (greenByte cw) (blueByte cw) (highByte cw)

/-- `matrix_index(x, y, rowWidth) = y * rowWidth + x` over `int`, exact (41_buffer_commands R93). -/
def matrixIndex (x y rowWidth : Word) : Int := signed y * signed rowWidth + signed x

/-- The 34 bits of a slot: tag `[33:32]`, colour word `[31:0]` (10_state R15, informative layout). -/
def PixelColor.slotBits : PixelColor → BitVec 34
  | .packed v => 0b00#2 ++ (0#8 ++ v : Word)
  | .rgb r g b => 0b01#2 ++ (0#8 ++ r ++ g ++ b : Word)
  | .rgba r g b a => 0b10#2 ++ (a ++ r ++ g ++ b : Word)

end Sys2Proof.Machine
end

