-- ==== Sys2Proof/Machine/Ops.lean ====
section
/-! DEFINITION. The shared operations: the slot memory, emitting, raising (the block's one form of exception,
60_exceptions R140, R144), the lifecycle check, constructing a buffer, writing a slot, calling the adapter, resetting.
There is no return from an exception: "no return-from-trap command and no nesting" (R145). -/

namespace Sys2Proof.Machine

/-! ### The slot memory (20_memory R30, R31; 10_state R14) -/

/-- What an unlisted index reads as: `PACKED(0x000000)`, the content creation gives every slot (41_buffer_commands R86).
Indices no constructor covers are unreachable (93 U14; log 5). -/
def Memory.blank : PixelColor := .packed 0#24

/-- Read one slot. -/
def Memory.read : Memory → Nat → PixelColor
  | [], _ => Memory.blank
  | (k, c) :: m, i => if k = i then c else Memory.read m i

/-- List `i ↦ c` in front, unless `c` is what an unlisted index reads as. -/
def Memory.cell (i : Nat) (c : PixelColor) (m : Memory) : Memory :=
  if c = Memory.blank then m else (i, c) :: m

/-- Replace one whole slot (20_memory R35). -/
def Memory.write : Memory → Nat → PixelColor → Memory
  | [], i, c => Memory.cell i c []
  | (k, d) :: m, i, c =>
    if k < i then (k, d) :: Memory.write m i c
    else if k = i then Memory.cell i c m
    else Memory.cell i c ((k, d) :: m)

/-- All slots at their creation value. -/
def Memory.clear : Memory := []

/-- The canonical form: indices strictly rising, no black entry; equal memories are equal lists. -/
abbrev Memory.wf (m : Memory) : Prop :=
  m.Pairwise (fun a b => a.1 < b.1) ∧ ∀ e ∈ m, e.2 ≠ Memory.blank

/-- `x[i]` (00_scope R9). -/
def State.slot (s : State) (i : Nat) : PixelColor := s.slots.read i

/-! ### Emitting, responding, raising -/

/-- Put one event on the block's outputs. -/
def State.emit (e : Event) (s : State) : State := { s with trace := s.trace ++ [e] }

/-- `respond OK`, or the response half of `raise`. -/
def respond (r : Response) (s : State) : State := s.emit (.response r)

/-- `raise <Cause>(info)` (00_scope R9): the response is `ERR`, `FAULT` takes the first cause (60_exceptions R140), and no
other state changes (R135, R144). -/
def raise (e : Err) (s : State) : State :=
  respond (.err e) { s with fault := stickyFault s.fault e.cause }

/-- `require c else raise e` (00_scope R9). -/
def require (c : Prop) [Decidable c] (e : Err) (s : State) (k : Out) : Out :=
  if c then k else .next (raise e s)

/-- The colour-word check of a packed or three-channel set: decode stage of 41_buffer_commands R85. -/
def requireColour (cw : Word) (s : State) (k : Out) : Out :=
  require (highByte cw = 0#8) (.illegalCommand cw) s k

/-- "SETPX.*, SETPXM.*, SETOPT, ENCODE: allowed when LIFE = CORE or LIFE = FACADE" (60_exceptions R141). -/
def requireBuffer (s : State) (k : Out) : Out := require (s.life ≠ .empty) (.illegalState s.life) s k

/-- "START, WAIT, CLEANUP: allowed when LIFE = FACADE" (60_exceptions R141). -/
def requireFacade (s : State) (k : Out) : Out := require (s.life = .facade) (.illegalState s.life) s k

/-! ### Constructing a buffer and writing a slot -/

/-- The checks CREATE and INIT share, in the order of 60_exceptions R143: `LIFE`, then `ord`, then `numElements`
(41_buffer_commands R86, 43_facade_adapter R111). -/
def withConstructor (ord : BitVec 3) (n : Int) (s : State) (k : ChannelOrder → Nat → Out) : Out :=
  require (s.life = .empty) (.illegalState s.life) s <|
  match ChannelOrder.ofCode ord with
  | none => .next (raise (.configError ord.toNat) s)
  | some o => require (0 ≤ n ∧ n ≤ s.cfg.nMax.val) (.configError n) s (k o n.toNat)

/-- The buffer part of a constructor: `NUM`, `ORD`, `OPT` and every slot black (41_buffer_commands R86). -/
def State.createBuffer (o : ChannelOrder) (n : Nat) (s : State) : State :=
  { s with num := n, ord := o, opt := optAfterConstruction, slots := Memory.clear }

/-- `check_index(index)` and the write of one slot (41_buffer_commands R95, R87 to R92). -/
def setPixel (index : Int) (c : PixelColor) (s : State) : Out :=
  requireBuffer s <|
  require (0 ≤ index ∧ index < s.num) (.boundsViolation index) s <|
  .next (respond .ok { s with slots := s.slots.write index.toNat c })

/-! ### The adapter port -/

/-- The answer to the call `c`, which has been issued: the command goes on, fails with AdapterFailure, or stays inside the
call (43_facade_adapter R119, R125). -/
def takeAnswer (c : AdpCall) (s : State) (k : State → Out) : Out :=
  match s.adapter.call c with
  | .ok a => k { s with adapter := a }
  | .fail sig a => .next (raise (.adapterFailure sig) { s with adapter := a })
  | .unanswered a => .next { s with adapter := a, port := .unanswered }
  | .hold a => .next { s with adapter := a, port := .holding }
  | .refuse => .refused (.adapterOrder c)

/-- `r <- Adp.<call>(args)` (00_scope R9): the call goes out and its answer is taken. -/
def callAdapter (c : AdpCall) (s : State) (k : State → Out) : Out := takeAnswer c (s.emit (.call c)) k

/-- A command that is one adapter call (START, WAIT, CLEANUP): `respond OK` when the answer is `ok`. -/
def forward (c : AdpCall) (s : State) : Out := callAdapter c s fun s => .next (respond .ok s)

/-! ### Reset -/

/-- An asserted reset (70_reset_and_hazards R160): the block's registers take the values of 10_state R22 and a command in
progress is abandoned.  Nothing emitted is recalled, no adapter call is issued, and the adapter is not reset (R162). -/
def resetBlock (s : State) : State :=
  { s with
    life := .empty, num := 0, ord := .rgb, opt := false, slots := Memory.clear,
    tZero := 0#32, tOne := 0#32, tFreq := 0#32, tReset := 0#32,
    fault := none, scan := 0, frame := [], port := .ready }

end Sys2Proof.Machine
end

