-- ==== Sys2Proof/Machine/Buffer.lean ====
section
/-! DEFINITION. The eight Sequence Buffer commands (41_buffer_commands). -/

namespace Sys2Proof.Machine

/-- CREATE (R86). -/
def execCreate (ord : BitVec 3) (numElements : Word) (s : State) : Out :=
  withConstructor ord (signed numElements) s fun o n =>
  .next (respond .ok { s.createBuffer o n with life := .core })

/-- SETPX.P (R87). -/
def execSetpxP (index cw : Word) (s : State) : Out :=
  requireColour cw s <| setPixel (signed index) (packedColor cw) s

/-- SETPX.C (R88). -/
def execSetpxC (index cw : Word) (s : State) : Out :=
  requireColour cw s <| setPixel (signed index) (structColor cw) s

/-- SETPX.A (R89): "All 32 bits of `cw` are meaningful". -/
def execSetpxA (index cw : Word) (s : State) : Out :=
  setPixel (signed index) (alphaColor cw) s

/-- SETPXM.P (R90). -/
def execSetpxmP (x y rowWidth cw : Word) (s : State) : Out :=
  requireColour cw s <| setPixel (matrixIndex x y rowWidth) (packedColor cw) s

/-- SETPXM.C (R91). -/
def execSetpxmC (x y rowWidth cw : Word) (s : State) : Out :=
  requireColour cw s <| setPixel (matrixIndex x y rowWidth) (structColor cw) s

/-- SETPXM.A (R92). -/
def execSetpxmA (x y rowWidth cw : Word) (s : State) : Out :=
  setPixel (matrixIndex x y rowWidth) (alphaColor cw) s

/-- SETOPT (R94). -/
def execSetopt (flag : Bool) (s : State) : Out :=
  requireBuffer s <| .next (respond .ok { s with opt := flag })

end Sys2Proof.Machine
end

