-- ==== Sys2Proof/Machine/ColorModel.lean ====
section
/-! DEFINITION. The Color Model: one slot to one 24-bit channel-ordered word (40_color_model). -/

namespace Sys2Proof.Machine

/-- `unpack(v)` (40_color_model R66): red in the most significant byte. -/
def unpack (v : Word24) : Byte × Byte × Byte := (v.extractLsb' 16 8, v.extractLsb' 8 8, v.extractLsb' 0 8)

/-- `scale(c, a) = c * (a div 255)`, the division first, in 8-bit unsigned arithmetic (40_color_model R67). -/
def scale (c a : Byte) : Byte := c * (a / 255#8)

/-- The red column of the permutation table (40_color_model R68). -/
def ChannelOrder.redOffset : ChannelOrder → Nat
  | .rgb => 16
  | .rbg => 16
  | .grb => 8
  | .gbr => 0
  | .brg => 8
  | .bgr => 0

/-- The green column of the permutation table (40_color_model R68). -/
def ChannelOrder.greenOffset : ChannelOrder → Nat
  | .rgb => 8
  | .rbg => 0
  | .grb => 16
  | .gbr => 16
  | .brg => 0
  | .bgr => 8

/-- The blue column of the permutation table (40_color_model R68). -/
def ChannelOrder.blueOffset : ChannelOrder → Nat
  | .rgb => 0
  | .rbg => 8
  | .grb => 0
  | .gbr => 8
  | .brg => 16
  | .bgr => 16

/-- `permute(ord, r, g, b)` (40_color_model R68): each channel shifted to its bit offset. -/
def permute (o : ChannelOrder) (r g b : Byte) : Word24 :=
  (r.setWidth 24 <<< o.redOffset) ||| (g.setWidth 24 <<< o.greenOffset) ||| (b.setWidth 24 <<< o.blueOffset)

/-- `permute` of an unpacked triple. -/
def permuteTriple (o : ChannelOrder) (t : Byte × Byte × Byte) : Word24 := permute o t.1 t.2.1 t.2.2

/-- `word_of_slot(s, ord, opt)` (40_color_model R75 to R78); the slot's tag is inspected once (R80). -/
def wordOfSlot (c : PixelColor) (o : ChannelOrder) (opt : Bool) : Word24 :=
  match c with
  | .packed v => if opt then v else permuteTriple o (unpack v)
  | .rgb r g b => permute o r g b
  | .rgba r g b a => permute o (scale r a) (scale g a) (scale b a)

end Sys2Proof.Machine
end

