-- ==== Sys2Proof/Machine/Serializer.lean ====
section
/-! DEFINITION. The Encoding Pipeline (42_encode_serializer): the frame as R100's loop builds it, the same frame byte by
byte (R101, R105), and ENCODE. -/

namespace Sys2Proof.Machine

/-- The transient of an ENCODE or START: the frame under construction and `scan` (10_state R21). -/
structure Serializer where
  frame : Frame
  scan : Nat
  deriving DecidableEq, Repr

/-- `MemWrite(addr, 3, w)` on a frame: most significant byte at the lowest address (00_scope R9, 20_memory R33). -/
def Frame.memWrite (f : Frame) (addr : Nat) (w : Word24) : Frame :=
  ((f.set addr (w.extractLsb' 16 8)).set (addr + 1) (w.extractLsb' 8 8)).set (addr + 2) (w.extractLsb' 0 8)

/-- The channel-ordered word of slot `i` in the state as it stands (42_encode_serializer R100). -/
def State.slotWord (s : State) (i : Nat) : Word24 := wordOfSlot (s.slot i) s.ord s.opt

/-- One turn of the loop of R100. -/
def serializeSlot (s : State) (z : Serializer) (i : Nat) : Serializer :=
  { frame := Frame.memWrite z.frame (3 * i) (s.slotWord i), scan := 3 * i + 3 }

/-- R100's loop: a byte sequence of length `3 * NUM`, filled slot by slot, ascending. -/
def serialize (s : State) : Serializer :=
  (List.range s.num).foldl (serializeSlot s) { frame := List.replicate (3 * s.num) 0#8, scan := 0 }

/-- The frame of the buffer as it stands. -/
def State.encodedFrame (s : State) : Frame := (serialize s).frame

/-- Byte `k` of the frame in closed form (42_encode_serializer R101). -/
def State.frameByte (s : State) (k : Nat) : Byte :=
  (s.slotWord (k / 3) >>> (8 * (2 - k % 3))).setWidth 8

/-- One micro-step of R105: emit byte `scan` and advance; nothing left to do at `3 * NUM`. -/
def microStep (s : State) (z : Serializer) : Serializer :=
  if z.scan < 3 * s.num then { frame := z.frame ++ [s.frameByte z.scan], scan := z.scan + 1 } else z

/-- `k` micro-steps of R105 from the start of the command. -/
def microRun (s : State) : Nat → Serializer
  | 0 => { frame := [], scan := 0 }
  | k + 1 => microStep s (microRun s k)

/-- ENCODE (R100).  `scan` is 0 again before the next command. -/
def execEncode (s : State) : Out :=
  requireBuffer s <|
  .next (respond .ok { s.emit (.frame s.encodedFrame) with scan := 0 })

end Sys2Proof.Machine
end

