-- ==== Sys2Proof/Machine/Facade.lean ====
section
/-! DEFINITION. The Driver Facade commands INIT, START, WAIT and CLEANUP (43_facade_adapter).  "The facade performs no
validation of adapter call ordering" (R117): each forwards its call whatever came before. -/

namespace Sys2Proof.Machine

/-- The Device Timing Profile as INIT stores it (10_state R17). -/
def State.setTiming (dutyZero dutyOne frequency resetDelay : Word) (s : State) : State :=
  { s with tZero := dutyZero, tOne := dutyOne, tFreq := frequency, tReset := resetDelay }

/-- The arguments INIT passes to `configurePattern` (43_facade_adapter R111, R121). -/
def State.pattern (s : State) : Pattern :=
  { byteCount := 3 * s.num, frequency := s.tFreq, resetDelay := s.tReset, dutyZero := s.tZero, dutyOne := s.tOne }

/-- What INIT commits before its first adapter call (R111). -/
def State.committed (o : ChannelOrder) (n : Nat) (dutyZero dutyOne frequency resetDelay : Word) (s : State) : State :=
  { (s.createBuffer o n).setTiming dutyZero dutyOne frequency resetDelay with life := .facade }

/-- INIT (R111): commits the buffer, the profile and `LIFE = FACADE`, then makes the two adapter calls; a failing call
leaves what is committed. -/
def execInit (ord : BitVec 3) (numElements dutyZero dutyOne frequency resetDelay : Word) (s : State) : Out :=
  withConstructor ord (signed numElements) s fun o n =>
  callAdapter .initialise (s.committed o n dutyZero dutyOne frequency resetDelay) fun s =>
  callAdapter (.configurePattern s.pattern) s fun s =>
  .next (respond .ok s)

/-- START (R112): the frame of ENCODE goes to the adapter, and no frame to OUT.  `scan` is 0 again before the next command
(10_state R21). -/
def execStart (s : State) : Out :=
  requireFacade s <| forward (.send s.encodedFrame) { s with scan := 0 }

/-- WAIT (R113). -/
def execWait (s : State) : Out := requireFacade s <| forward .awaitCompletion s

/-- CLEANUP (R114): no state of the block changes. -/
def execCleanup (s : State) : Out := requireFacade s <| forward .teardown s

end Sys2Proof.Machine
end

