-- ==== Sys2Proof/Machine/Dispatch.lean ====
section
/-! DEFINITION. One arm per command of 30_encoding R50. -/

namespace Sys2Proof.Machine

/-- The meaning of a command (00_scope R7): one atomic transition of the block. -/
def exec (i : Instr) (s : State) : Host.Outcome State Fault Refusal :=
  match i with
  | .create ord numElements => Sys2Proof.Machine.execCreate ord numElements s
  | .setpxP index cw => Sys2Proof.Machine.execSetpxP index cw s
  | .setpxC index cw => Sys2Proof.Machine.execSetpxC index cw s
  | .setpxA index cw => Sys2Proof.Machine.execSetpxA index cw s
  | .setpxmP x y rowWidth cw => Sys2Proof.Machine.execSetpxmP x y rowWidth cw s
  | .setpxmC x y rowWidth cw => Sys2Proof.Machine.execSetpxmC x y rowWidth cw s
  | .setpxmA x y rowWidth cw => Sys2Proof.Machine.execSetpxmA x y rowWidth cw s
  | .setopt flag => Sys2Proof.Machine.execSetopt flag s
  | .encode => Sys2Proof.Machine.execEncode s
  | .init ord numElements dutyZero dutyOne frequency resetDelay => Sys2Proof.Machine.execInit ord numElements dutyZero dutyOne frequency resetDelay s
  | .start => Sys2Proof.Machine.execStart s
  | .wait => Sys2Proof.Machine.execWait s
  | .cleanup => Sys2Proof.Machine.execCleanup s

end Sys2Proof.Machine
end

