-- ==== Sys2Proof/Machine/Within.lean ====
section
/-! DEFINITION. The block inside a command (42_encode_serializer R105, 70_reset_and_hazards R160, 93 U18).  A command that
emits something before its response can also be looked at piece by piece: the bytes of its frame, the frame, each call,
each answer, the response.  `exec` is the whole of them at once; a `tick` behind a command's words asks for the pieces. -/

namespace Sys2Proof.Machine

/-- The start of an ENCODE or START: `scan` is 0 and no byte stands (10_state R21, 42_encode_serializer R100). -/
def beginFrame (d : Destination) (s : State) : Out :=
  .next { s with frame := [], scan := 0, port := .serializing d }

/-- A call goes out and the adapter acts on it; that the block takes the answer is still to come. -/
def issue (c : AdpCall) (s : State) : Out :=
  match s.adapter.call c with
  | .ok a => .next { s.emit (.call c) with adapter := a, port := .calling c .ok }
  | .fail sig a => .next { s.emit (.call c) with adapter := a, port := .calling c (.fail sig) }
  | .unanswered a => .next { s.emit (.call c) with adapter := a, port := .unanswered }
  | .hold a => .next { s.emit (.call c) with adapter := a, port := .holding }
  | .refuse => .refused (.adapterOrder c)

/-- The first piece of a command: the checks, what it commits, and the first thing it emits.  A command that emits only its
response is one piece. -/
def beginCommand (i : Instr) (s : State) : Out :=
  match i with
  | .create ord n => exec (.create ord n) s
  | .setpxP index cw => exec (.setpxP index cw) s
  | .setpxC index cw => exec (.setpxC index cw) s
  | .setpxA index cw => exec (.setpxA index cw) s
  | .setpxmP x y w cw => exec (.setpxmP x y w cw) s
  | .setpxmC x y w cw => exec (.setpxmC x y w cw) s
  | .setpxmA x y w cw => exec (.setpxmA x y w cw) s
  | .setopt flag => exec (.setopt flag) s
  | .encode => requireBuffer s <| beginFrame .out s
  | .init ord n dz d1 f rd => withConstructor ord (signed n) s fun o n => issue .initialise (s.committed o n dz d1 f rd)
  | .start => requireFacade s <| beginFrame .adapter s
  | .wait => requireFacade s <| issue .awaitCompletion s
  | .cleanup => requireFacade s <| issue .teardown s

/-- What follows a call that answered `ok`: INIT's second call after its first, else the response (43_facade_adapter R111 to
R114). -/
def afterAnswer (c : AdpCall) (s : State) : Out :=
  match c with
  | .initialise => issue (.configurePattern s.pattern) s
  | .configurePattern _ => .next (respond .ok s)
  | .send _ => .next (respond .ok s)
  | .awaitCompletion => .next (respond .ok s)
  | .teardown => .next (respond .ok s)

/-- A finished frame leaves: to the OUT port, or to the adapter; the response is still to come, and until then the frame
stands and `scan` is `3 * NUM` (42_encode_serializer R100, 43_facade_adapter R112, 10_state R21). -/
def deliverFrame (d : Destination) (s : State) : Out :=
  match d with
  | .out => .next { s.emit (.frame s.frame) with port := .delivered }
  | .adapter => issue (.send s.frame) s

/-- The end of a command: between commands `scan` is 0 and no byte stands (10_state R21). -/
def State.close (s : State) : State := { s with frame := [], scan := 0, port := .ready }

/-- A micro-step of R105 on the state: byte `scan` of the frame. -/
def serializeByte (s : State) : State :=
  let z := microStep s { frame := s.frame, scan := s.scan }
  { s with frame := z.frame, scan := z.scan }

/-- The block's next piece of the command it is inside of. -/
def advance (s : State) : Out :=
  match s.port with
  | .ready => .next s
  | .serializing d => if s.scan < 3 * s.num then .next (serializeByte s) else deliverFrame d s
  | .delivered => .next (respond .ok s.close)
  | .calling c .ok => afterAnswer c s.close
  | .calling _ (.fail sig) => .next (raise (.adapterFailure sig) s.close)
  | .unanswered => .next s
  | .holding =>
    if s.adapter.sending then .next { s with adapter := s.adapter.complete }
    else takeAnswer .awaitCompletion { s with port := .ready } (afterAnswer .awaitCompletion)

/-- A step inside a command: an asserted reset abandons it (70_reset_and_hazards R160), the adapter takes a step of its own,
or the block goes on, with a `tick` or without.  Presented words are not taken (43_facade_adapter R113). -/
def stepWithin (s : State) : Out :=
  match s.inputs with
  | .reset :: rest => .next (resetBlock { s with inputs := rest })
  | .complete :: rest => .next { s with adapter := s.adapter.complete, inputs := rest }
  | .tick :: rest => advance { s with inputs := rest }
  | .word _ :: _ => advance s
  | [] => advance s

end Sys2Proof.Machine
end

