-- ==== Sys2Proof/Machine/Stream.lean ====
section
/-! DEFINITION. Taking commands from the host's stream and executing them, and waiting for their words (20_memory R43;
30_encoding R53; 70_reset_and_hazards R160). -/

namespace Sys2Proof.Machine

/-- The command words at the front of the inputs, up to whatever is not a word. -/
def leadingWords : List Input → List Word
  | .word w :: rest => w :: leadingWords rest
  | _ => []

/-- The inputs from the first that is not a word. -/
def afterWords : List Input → List Input
  | .word _ :: rest => afterWords rest
  | l => l

/-- `s` with the words `ws` still to be taken, then what stood behind the leading words. -/
def State.withWords (s : State) (ws : List Word) : State :=
  { s with inputs := ws.map Input.word ++ afterWords s.inputs }

/-- The block waits for a word (30_encoding R53); `pending` are words it has not consumed.  A reset abandons the wait and
those words (70_reset_and_hazards R160); the adapter's own step changes only the adapter; a `tick` has no command to go on
with; otherwise the machine stays as it is, a stuck state if nothing follows (93 U17). -/
def idle (pending : List Word) (tail : List Input) (s : State) : State :=
  match tail with
  | .reset :: rest => resetBlock { s with inputs := rest }
  | .complete :: rest => { s with adapter := s.adapter.complete, inputs := pending.map Input.word ++ rest }
  | .tick :: rest => { s with inputs := pending.map Input.word ++ rest }
  | .word _ :: _ => s
  | [] => s

/-- Run the command `i`, the words `rest` standing between it and `tail`: as one step, or, if a `tick` stands directly
behind it, its first piece. -/
def perform (i : Instr) (rest : List Word) (tail : List Input) (s : State) : Out :=
  match rest, tail with
  | [], .tick :: tail => beginCommand i { s with inputs := tail }
  | rest, tail => exec i { s with inputs := rest.map Input.word ++ tail }

/-- Between commands: take the next command and execute it.  An illegal encoding raises IllegalCommand with the offending
word and consumes one word (header) or the command's full length (colour word) (30_encoding R52). -/
def stepReady (s : State) : Out :=
  match decode (leadingWords s.inputs) with
  | .ok i rest => perform i rest (afterWords s.inputs) s
  | .badHeader h rest => .next (raise (.illegalCommand h) (s.withWords rest))
  | .badColour cw rest => .next (raise (.illegalCommand cw) (s.withWords rest))
  | .incomplete => .next (idle (leadingWords s.inputs) (afterWords s.inputs) s)

/-- The words of the one command that the number `w` gives, no more than its header asks for (30_encoding R51). -/
def fetchWords (nbits w : Nat) : List Word :=
  (tableWords nbits w).take (commandLength (BitVec.ofNat 32 (w % 2 ^ nbits)))

end Sys2Proof.Machine
end

