-- ==== Sys2Proof/Machine/Step.lean ====
section
/-! DEFINITION. One step of the machine, and how the host puts one command before it. -/

namespace Sys2Proof.Machine

/-- One step: a command, a piece of one, a reset, a step of the adapter, or waiting.  Inside a command "the block accepts
no further command" (43_facade_adapter R113, 42_encode_serializer R105). -/
def step (s : State) : Host.Outcome State Fault Refusal :=
  if s.port = .ready then stepReady s else stepWithin s

/-- `s` with that command next on the command port, the block ready to take it: the host presents its words (log 6). -/
def State.withFetchWord (s : State) (nbits w : Nat) : State :=
  { s with inputs := (fetchWords nbits w).map Input.word ++ s.inputs, port := .ready }

end Sys2Proof.Machine
end

