-- ==== Sys2Proof/Machine/Assembly.lean ====
section
/-! DEFINITION. The textual form of commands (30_encoding R55) and the pseudo-instructions SETLED and SETLEDM (R56,
43_facade_adapter R115, R116).  Nothing of the machine depends on this file. -/

namespace Sys2Proof.Machine

/-- A command as written: R55's lines and R56's pseudo-instructions, before any is turned into words. -/
inductive AsmLine where
  | create (n : Int) (ord : BitVec 3)
  | setpx (idx : Int) (c : PixelColor)
  | setpxm (x y w : Int) (c : PixelColor)
  | setled (idx : Int) (c : PixelColor)
  | setledm (x y w : Int) (c : PixelColor)
  | setopt (flag : Bool)
  | encode
  | init (n : Int) (ord : BitVec 3) (dz d1 f rd : Nat)
  | start
  | wait
  | cleanup
  deriving DecidableEq, Repr

/-- "They are pure aliases, with the same encoding and the same rule as their targets" (30_encoding R56). -/
def AsmLine.expand : AsmLine → AsmLine
  | .setled idx c => .setpx idx c
  | .setledm x y w c => .setpxm x y w c
  | l => l

/-- A signed decimal operand as its command word, where 32 bits hold it (30_encoding R47). -/
def signedWord (n : Int) : Option Word :=
  if -2147483648 ≤ n ∧ n ≤ 2147483647 then some (BitVec.ofInt 32 n) else none

/-- An unsigned decimal operand as its command word, where 32 bits hold it (30_encoding R47). -/
def unsignedWord (n : Nat) : Option Word :=
  if n < 4294967296 then some (BitVec.ofNat 32 n) else none

/-- The colour word of a colour operand (30_encoding R48): the low 32 bits of the slot layout (10_state R15). -/
def colourWord (c : PixelColor) : Word := c.slotBits.setWidth 32

/-- SETPX with the variant the form of the colour selects (30_encoding R55). -/
def setpxInstr (index : Word) (c : PixelColor) : Instr :=
  match c with
  | .packed _ => .setpxP index (colourWord c)
  | .rgb _ _ _ => .setpxC index (colourWord c)
  | .rgba _ _ _ _ => .setpxA index (colourWord c)

/-- SETPXM with the variant the form of the colour selects (30_encoding R55). -/
def setpxmInstr (x y w : Word) (c : PixelColor) : Instr :=
  match c with
  | .packed _ => .setpxmP x y w (colourWord c)
  | .rgb _ _ _ => .setpxmC x y w (colourWord c)
  | .rgba _ _ _ _ => .setpxmA x y w (colourWord c)

/-- The command a line stands for; none where an operand does not fit its word. -/
def AsmLine.instr (l : AsmLine) : Option Instr :=
  match l with
  | .create n ord => (signedWord n).map fun n => .create ord n
  | .setpx idx c | .setled idx c => (signedWord idx).map fun i => setpxInstr i c
  | .setpxm x y w c | .setledm x y w c => do
    let x ← signedWord x
    let y ← signedWord y
    let w ← signedWord w
    return setpxmInstr x y w c
  | .setopt flag => some (.setopt flag)
  | .encode => some .encode
  | .init n ord dz d1 f rd => do
    let n ← signedWord n
    let dz ← unsignedWord dz
    let d1 ← unsignedWord d1
    let f ← unsignedWord f
    let rd ← unsignedWord rd
    return .init ord n dz d1 f rd
  | .start => some .start
  | .wait => some .wait
  | .cleanup => some .cleanup

/-! ### Reading a line of text -/

/-- A token of a line. -/
inductive Token where
  | word (cs : List Char)
  | comma
  | openParen
  | closeParen
  deriving DecidableEq, Repr

/-- A word that has been read so far, as a token, if there is one (kept in reverse while it is read). -/
def flushWord (acc : List Char) (ts : List Token) : List Token :=
  if acc.isEmpty then ts else .word acc.reverse :: ts

/-- Cut a line into tokens; `acc` is the word being read, reversed. -/
def tokens (acc : List Char) : List Char → List Token
  | [] => flushWord acc []
  | c :: cs =>
    if c = ' ' then flushWord acc (tokens [] cs)
    else if c = ',' then flushWord acc (.comma :: tokens [] cs)
    else if c = '(' then flushWord acc (.openParen :: tokens [] cs)
    else if c = ')' then flushWord acc (.closeParen :: tokens [] cs)
    else tokens (c :: acc) cs

/-- The digits in the order of their values, in the two spellings a hexadecimal digit has. -/
def digitRows : List (List Char) := ["0123456789ABCDEF".toList, "0123456789abcdef".toList]

/-- The value of a digit: its place in a row of digits. -/
def digitValue (ch : Char) : Option Nat := digitRows.findSome? (List.idxOf? ch)

/-- Digits to a number, `acc` being the value of those before. -/
def readDigits (base acc : Nat) : List Char → Option Nat
  | [] => some acc
  | c :: cs =>
    match digitValue c with
    | some d => if d < base then readDigits base (acc * base + d) cs else none
    | none => none

/-- An unsigned number of at least one digit. -/
def readNat (base : Nat) (cs : List Char) : Option Nat :=
  if cs.isEmpty then none else readDigits base 0 cs

/-- A signed decimal integer. -/
def readInt (cs : List Char) : Option Int :=
  match cs with
  | '-' :: ds => (readNat 10 ds).map fun n => - Int.ofNat n
  | ds => (readNat 10 ds).map Int.ofNat

/-- A channel value: "decimal 0 .. 255 or 0x00 .. 0xFF" (30_encoding R55). -/
def readChannel (cs : List Char) : Option Byte :=
  let value := match cs with
    | '0' :: 'x' :: ds => readNat 16 ds
    | ds => readNat 10 ds
  match value with
  | some n => if n < 256 then some (BitVec.ofNat 8 n) else none
  | none => none

/-- A Channel Order name, or `#6`, `#7` "for the unrecognised codes" (30_encoding R55). -/
def readOrder (cs : List Char) : Option (BitVec 3) :=
  if cs = "RGB".toList then some 0
  else if cs = "RBG".toList then some 1
  else if cs = "GRB".toList then some 2
  else if cs = "GBR".toList then some 3
  else if cs = "BRG".toList then some 4
  else if cs = "BGR".toList then some 5
  else if cs = "#6".toList then some 6
  else if cs = "#7".toList then some 7
  else none

/-- A colour: `#RRGGBB`, `rgb(r, g, b)` or `rgba(r, g, b, a)` (30_encoding R55). -/
def readColour (ts : List Token) : Option PixelColor :=
  match ts with
  | [.word ('#' :: ds)] =>
    if ds.length = 6 then (readNat 16 ds).map fun n => .packed (BitVec.ofNat 24 n) else none
  | [.word f, .openParen, .word r, .comma, .word g, .comma, .word b, .closeParen] =>
    if f = "rgb".toList then do return .rgb (← readChannel r) (← readChannel g) (← readChannel b) else none
  | [.word f, .openParen, .word r, .comma, .word g, .comma, .word b, .comma, .word a, .closeParen] =>
    if f = "rgba".toList then
      do return .rgba (← readChannel r) (← readChannel g) (← readChannel b) (← readChannel a)
    else none
  | _ => none

/-- Whether a colour has the form an explicit `.P`, `.C` or `.A` mnemonic names. -/
def hasVariant (variant : Char) : PixelColor → Bool
  | .packed _ => variant = 'P'
  | .rgb _ _ _ => variant = 'C'
  | .rgba _ _ _ _ => variant = 'A'

/-- The colour at the end of a SETPX or SETPXM line, of the variant the mnemonic asks for, if it asks. -/
def readColourAs (variant : Option Char) (ts : List Token) : Option PixelColor :=
  match readColour ts, variant with
  | some c, some v => if hasVariant v c then some c else none
  | c, _ => c

/-- The operands of an indexed set. -/
def readSetpx (variant : Option Char) (ts : List Token) : Option (Int × PixelColor) :=
  match ts with
  | .word i :: .comma :: colour => do return (← readInt i, ← readColourAs variant colour)
  | _ => none

/-- The operands of a matrix set. -/
def readSetpxm (variant : Option Char) (ts : List Token) : Option (Int × Int × Int × PixelColor) :=
  match ts with
  | .word x :: .comma :: .word y :: .comma :: .word w :: .comma :: colour =>
    do return (← readInt x, ← readInt y, ← readInt w, ← readColourAs variant colour)
  | _ => none

/-- The operands of a line whose mnemonic is `m` (30_encoding R55, R56). -/
def readOperands (m : List Char) (ts : List Token) : Option AsmLine :=
  let setpx (v : Option Char) := (readSetpx v ts).map fun p => AsmLine.setpx p.1 p.2
  let setpxm (v : Option Char) := (readSetpxm v ts).map fun p => AsmLine.setpxm p.1 p.2.1 p.2.2.1 p.2.2.2
  if m = "CREATE".toList then
    match ts with
    | [.word n, .comma, .word o] => do return .create (← readInt n) (← readOrder o)
    | _ => none
  else if m = "SETPX".toList then setpx none
  else if m = "SETPX.P".toList then setpx (some 'P')
  else if m = "SETPX.C".toList then setpx (some 'C')
  else if m = "SETPX.A".toList then setpx (some 'A')
  else if m = "SETPXM".toList then setpxm none
  else if m = "SETPXM.P".toList then setpxm (some 'P')
  else if m = "SETPXM.C".toList then setpxm (some 'C')
  else if m = "SETPXM.A".toList then setpxm (some 'A')
  else if m = "SETLED".toList then (readSetpx none ts).map fun p => AsmLine.setled p.1 p.2
  else if m = "SETLEDM".toList then
    (readSetpxm none ts).map fun p => AsmLine.setledm p.1 p.2.1 p.2.2.1 p.2.2.2
  else if m = "SETOPT".toList then
    match ts with
    | [.word ['0']] => some (.setopt false)
    | [.word ['1']] => some (.setopt true)
    | _ => none
  else if m = "INIT".toList then
    match ts with
    | [.word n, .comma, .word o, .comma, .word dz, .comma, .word d1, .comma, .word f, .comma, .word rd] =>
      do return .init (← readInt n) (← readOrder o) (← readNat 10 dz) (← readNat 10 d1) (← readNat 10 f) (← readNat 10 rd)
    | _ => none
  else if ts ≠ [] then none
  else if m = "ENCODE".toList then some .encode
  else if m = "START".toList then some .start
  else if m = "WAIT".toList then some .wait
  else if m = "CLEANUP".toList then some .cleanup
  else none

/-- Read one line of text (30_encoding R55). -/
def readLine (text : String) : Option AsmLine :=
  match tokens [] text.toList with
  | .word m :: ts => readOperands m ts
  | _ => none

/-- Assemble one line: the command words it stands for. -/
def assemble (text : String) : Option (List Word) := do
  let line ← readLine text
  return encode (← line.instr)

end Sys2Proof.Machine
end

