-- ==== Sys2Proof/Safety.lean ====
section
/-! DEFINITION. What a safe run is: the invariant of 10_state R23, the end of a run and a clean run
(70_reset_and_hazards R173), and the projections of the trace that claims speak of. -/

namespace Sys2Proof.Machine

/-- The places inside a command at which a frame is under construction or stands whole. -/
def PortState.hasFrame : PortState → Bool
  | .ready => false
  | .unanswered => false
  | .holding => false
  | .serializing _ => true
  | .delivered => true
  | .calling (.send _) _ => true
  | .calling .initialise _ => false
  | .calling (.configurePattern _) _ => false
  | .calling .awaitCompletion _ => false
  | .calling .teardown _ => false

/-- The places only a facade command can be at (60_exceptions R141). -/
def PortState.ofFacade : PortState → Bool
  | .ready => false
  | .unanswered => true
  | .holding => true
  | .serializing .out => false
  | .serializing .adapter => true
  | .delivered => false
  | .calling _ _ => true

/-- 10_state R23, with the canonical form of the slot memory (R14: nothing is stored at an index `>= NUM`), the transients
of a serialization (R21; 42_encode_serializer R105) and the place inside a command (60_exceptions R149, 43_facade_adapter
R126). -/
structure State.Inv (s : State) : Prop where
  /-- `0 <= NUM <= N_MAX`. -/
  num_le : s.num ≤ s.cfg.nMax.val
  /-- The slot memory is canonical. -/
  slots_wf : s.slots.wf
  /-- No slot is listed outside `0 .. NUM-1`. -/
  slots_lt : ∀ e ∈ s.slots, e.1 < s.num
  /-- `LIFE = EMPTY` implies `NUM = 0`, `OPT = 0`, `ORD = 0`. -/
  empty_zero : s.life = .empty → s.num = 0 ∧ s.opt = false ∧ s.ord = .rgb
  /-- `LIFE = EMPTY` and `LIFE = CORE` each imply that all `T_*` are 0. -/
  timing_zero : s.life ≠ .facade → s.tZero = 0#32 ∧ s.tOne = 0#32 ∧ s.tFreq = 0#32 ∧ s.tReset = 0#32
  /-- `scan` counts the bytes that stand. -/
  scan_frame : s.scan = s.frame.length
  /-- The bytes that stand are those of the buffer (42_encode_serializer R101, R105). -/
  frame_bytes : ∀ k < s.scan, s.frame[k]? = some (s.frameByte k)
  /-- `scan` never exceeds `3 * NUM`. -/
  scan_le : s.scan ≤ 3 * s.num
  /-- No byte stands, and so `scan` is 0, where no serialization is under way; between commands above all. -/
  frame_nil : s.port.hasFrame = false → s.frame = []
  /-- A frame that is out is whole. -/
  delivered_whole : s.port = .delivered → s.scan = 3 * s.num
  /-- A frame that is handed to the adapter is whole, and is the frame that stands until START responds. -/
  sent_whole : ∀ f a, s.port = .calling (.send f) a → s.scan = 3 * s.num ∧ s.frame = f
  /-- The block is inside a command only with a buffer. -/
  port_buffer : s.port ≠ .ready → s.life ≠ .empty
  /-- Only a facade is ever inside an adapter call, or builds a frame for the adapter. -/
  port_facade : s.port.ofFacade = true → s.life = .facade
  /-- Only the reference adapter holds a WAIT. -/
  holding_reference : s.port = .holding → s.adapter.isReference = true

/-- A clean state: "no fault recorded" (60_exceptions R140, 70_reset_and_hazards R173). -/
abbrev State.clean (s : State) : Prop := s.fault = none

/-- The command words still to come in this run: a run is "reset, then a finite sequence of whole commands"
(70_reset_and_hazards R173), so that words behind the next reset belong to another run. -/
def wordsOfRun : List Input → List Word
  | [] => []
  | .word w :: rest => w :: wordsOfRun rest
  | .reset :: _ => []
  | .complete :: rest => wordsOfRun rest
  | .tick :: rest => wordsOfRun rest

/-- The run has ended: "the last command has responded" (70_reset_and_hazards R173).  Whether a frame handed to the adapter
has been transmitted, or a reset is yet to come, does not matter. -/
abbrev State.ended (s : State) : Prop := s.port = .ready ∧ wordsOfRun s.inputs = []

/-- The responses on RSP, oldest first. -/
def responses (t : List Event) : List Response :=
  t.filterMap fun
    | .response r => some r
    | _ => none

/-- The frames on OUT, oldest first. -/
def frames (t : List Event) : List Frame :=
  t.filterMap fun
    | .frame f => some f
    | _ => none

/-- The calls on ADP, oldest first. -/
def calls (t : List Event) : List AdpCall :=
  t.filterMap fun
    | .call c => some c
    | _ => none

/-! ### Shapes of an outcome that claims speak of -/

/-- The command answers `ERR(e)` and changes nothing but `FAULT`, which takes the first cause (60_exceptions R135, R140). -/
def AnswersErr (o : Out) (s : State) (e : Err) : Prop :=
  o = .next { s with
    fault := if s.fault = none then some e.cause else s.fault
    trace := s.trace ++ [.response (.err e)] }

/-- The command answers `OK`, slot `i` becomes `c`, and nothing else of the state changes: no other slot, no register, no
input, nothing emitted but the response (41_buffer_commands R96). -/
def WritesSlot (o : Out) (s : State) (i : Nat) (c : PixelColor) : Prop :=
  ∃ t, o = .next t ∧ t = { s with slots := t.slots, trace := s.trace ++ [.response .ok] } ∧
    t.slot i = c ∧ ∀ j, j ≠ i → t.slot j = s.slot j

/-- The final index of a SETPX or SETPXM (41_buffer_commands R87 to R93), with the functions the meanings use. -/
def pixelIndex : Instr → Option Int
  | .setpxP index _ => some (signed index)
  | .setpxC index _ => some (signed index)
  | .setpxA index _ => some (signed index)
  | .setpxmP x y w _ => some (matrixIndex x y w)
  | .setpxmC x y w _ => some (matrixIndex x y w)
  | .setpxmA x y w _ => some (matrixIndex x y w)
  | .create _ _ => none
  | .setopt _ => none
  | .encode => none
  | .init _ _ _ _ _ _ => none
  | .start => none
  | .wait => none
  | .cleanup => none

/-- The lifecycle table of 60_exceptions R141, column "Allowed when". -/
def lifeAllows (i : Instr) (l : Life) : Prop :=
  match i with
  | .create _ _ => l = .empty
  | .init _ _ _ _ _ _ => l = .empty
  | .setpxP _ _ => l = .core ∨ l = .facade
  | .setpxC _ _ => l = .core ∨ l = .facade
  | .setpxA _ _ => l = .core ∨ l = .facade
  | .setpxmP _ _ _ _ => l = .core ∨ l = .facade
  | .setpxmC _ _ _ _ => l = .core ∨ l = .facade
  | .setpxmA _ _ _ _ => l = .core ∨ l = .facade
  | .setopt _ => l = .core ∨ l = .facade
  | .encode => l = .core ∨ l = .facade
  | .start => l = .facade
  | .wait => l = .facade
  | .cleanup => l = .facade

/-- 30_encoding R52 (a): a header that selects no row, spelled out by its fields: an `op` outside the list, a non-zero
`rsv`, a reserved bit of `sub` for the format of `op`, or `ctag = 3`. -/
def illegalHeader (h : Word) : Prop :=
  let op := h.extractLsb' 24 8
  let rsv := h.extractLsb' 8 16
  (op ∉ [0x01#8, 0x02#8, 0x03#8, 0x04#8, 0x05#8, 0x10#8, 0x11#8, 0x12#8, 0x13#8]) ∨
  rsv ≠ 0#16 ∨
  (op ∈ [0x01#8, 0x10#8] ∧ h.extractLsb' 3 5 ≠ 0#5) ∨
  (op ∈ [0x02#8, 0x03#8] ∧ (h.extractLsb' 2 6 ≠ 0#6 ∨ h.extractLsb' 0 2 = 3#2)) ∨
  (op = 0x04#8 ∧ h.extractLsb' 1 7 ≠ 0#7) ∨
  (op ∈ [0x05#8, 0x11#8, 0x12#8, 0x13#8] ∧ h.extractLsb' 0 8 ≠ 0#8)

/-! ### Renaming the adapter's failure signals (93_implementation_defined U9) -/

/-- A response with every signal renamed by `f`. -/
def Response.mapSignal (f : AdpSignal → AdpSignal) : Response → Response
  | .err (.adapterFailure sig) => .err (.adapterFailure (f sig))
  | r => r

/-- An event with every signal renamed by `f`. -/
def Event.mapSignal (f : AdpSignal → AdpSignal) : Event → Event
  | .response r => .response (r.mapSignal f)
  | e => e

/-- An answer with its signal renamed by `f`. -/
def AdpAnswer.mapSignal (f : AdpSignal → AdpSignal) : AdpAnswer → AdpAnswer
  | .ok => .ok
  | .fail sig => .fail (f sig)

/-- What an oracle does with an `awaitCompletion`, with its signal renamed by `f`. -/
def Completion.mapSignal (f : AdpSignal → AdpSignal) : Completion → Completion
  | .answered a => .answered (a.mapSignal f)
  | .never => .never

/-- An adapter with the signals of its coming answers renamed by `f`. -/
def Adapter.mapSignal (f : AdpSignal → AdpSignal) : Adapter → Adapter
  | .oracle answers completions =>
    .oracle (answers.map (AdpAnswer.mapSignal f)) (completions.map (Completion.mapSignal f))
  | .reference r answers => .reference r (answers.map (AdpAnswer.mapSignal f))

/-- A place inside a command with the signal of an answer not yet taken renamed by `f`. -/
def PortState.mapSignal (f : AdpSignal → AdpSignal) : PortState → PortState
  | .ready => .ready
  | .unanswered => .unanswered
  | .holding => .holding
  | .serializing d => .serializing d
  | .delivered => .delivered
  | .calling c a => .calling c (a.mapSignal f)

/-- A state with every signal renamed by `f`: in the adapter's coming answers, in one not yet taken, and in what the block
has emitted. -/
def State.mapSignal (f : AdpSignal → AdpSignal) (s : State) : State :=
  { s with trace := s.trace.map (Event.mapSignal f), adapter := s.adapter.mapSignal f, port := s.port.mapSignal f }

/-- An outcome with every signal renamed by `f`. -/
def mapOutcome (f : AdpSignal → AdpSignal) : Out → Out
  | .next t => .next (t.mapSignal f)
  | .fault r => .fault r
  | .refused r => .refused r

/-- The next state of an outcome, where there is one. -/
def next? : Out → Option State
  | .next s => some s
  | .fault _ => none
  | .refused _ => none

/-- `n` steps, stopping at the first refusal. -/
def steps : Nat → State → Out
  | 0, s => .next s
  | n + 1, s =>
    match step s with
    | .next t => steps n t
    | .fault r => .fault r
    | .refused r => .refused r

end Sys2Proof.Machine
end

