-- ==== Sys2Proof/Certificates/Slice0/Obligations.lean ====
section
/-! DEFINITION. The statements about the model.  Each docstring names the rule of spec/ it formalises, or says that it
rests on a choice of the model and names the log entry. -/

open Sys2Proof Sys2Proof.Machine

/-! ### Encoding (30_encoding) -/

/-- Every well-formed command, with every operand at every value, is what the decoder reads from its words, whatever words
follow (30_encoding R45 to R51). -/
def Obligations.DecodeOfEncode : Prop :=
  ∀ (i : Instr) (rest : List Word), i.wellFormed = true → decode (encode i ++ rest) = .ok i rest

/-- Every list of words the decoder reads a command from begins with exactly that command's words, and the command is
well-formed: each pattern has one meaning (30_encoding R50, R52). -/
def Obligations.EncodeOfDecode : Prop :=
  ∀ (ws rest : List Word) (i : Instr), decode ws = .ok i rest → ws = encode i ++ rest ∧ i.wellFormed = true

/-- No header selects two rows of the opcode map (30_encoding R50). -/
def Obligations.OpcodeRowsExclusive : Prop :=
  ∀ (h : Word) (r₁ r₂ : Row), r₁ ∈ opcodeTable → r₂ ∈ opcodeTable → r₁.selects h = true → r₂.selects h = true → r₁ = r₂

/-- A header selects no row exactly when R52 (a)'s list of fields says it is illegal, and the decoder then takes one
word. -/
def Obligations.IllegalHeaderByFields : Prop :=
  ∀ (h : Word) (ws : List Word), decode (h :: ws) = .badHeader h ws ↔ illegalHeader h

/-- The header alone decides how many words a command takes; a command is incomplete exactly while fewer have arrived; a
colour word with a reserved bit still takes the full length (30_encoding R51, R52, R53). -/
def Obligations.LengthDecidedByHeader : Prop :=
  ∀ (h : Word) (ws : List Word),
    (decode (h :: ws) = .incomplete ↔ ws.length + 1 < commandLength h) ∧
    (∀ i rest, decode (h :: ws) = .ok i rest → ws.length + 1 = commandLength h + rest.length) ∧
    (∀ cw rest, decode (h :: ws) = .badColour cw rest →
      ws.length + 1 = commandLength h + rest.length ∧ cw.extractLsb' 24 8 ≠ 0#8) ∧
    (∀ w rest, decode (h :: ws) = .badHeader w rest → w = h ∧ rest = ws ∧ commandLength h = 1)

/-- Words written out from the examples of the command rules decode to the commands they stand for. -/
def Obligations.ExampleWordsDecode : Prop :=
  decode [0x01000002#32, 0x0000000A#32] = .ok (.create 2 10) [] ∧
  decode [0x02000000#32, 0x00000005#32, 0x00FF0000#32] = .ok (.setpxP 5 0x00FF0000#32) [] ∧
  decode [0x03000001#32, 1#32, 2#32, 4#32, 0x00102030#32] = .ok (.setpxmC 1 2 4 0x00102030#32) [] ∧
  decode [0x04000001#32] = .ok (.setopt true) [] ∧
  decode [0x10000002#32, 2#32, 3#32, 6#32, 0x000C3500#32, 0x32#32] = .ok (.init 2 2 3 6 800000 50) [] ∧
  decode [0x13000000#32] = .ok .cleanup []

/-- Each written form stands for its command, its operands in their words and the form of the colour choosing the variant
(30_encoding R55); SETLED and SETLEDM are written forms of the commands of SETPX and SETPXM (R56, 43_facade_adapter R115,
R116).  No line stands for an ill-formed command, and a written colour comes back as the Pixel Color the command stores
(30_encoding R48). -/
def Obligations.WrittenLinesStandForTheirCommands : Prop :=
  (∀ (n : Int) (ord : BitVec 3), -2147483648 ≤ n → n ≤ 2147483647 →
    (AsmLine.create n ord).instr = some (.create ord (BitVec.ofInt 32 n)) ∧
    ∀ dz d1 f rd : Word,
      (AsmLine.init n ord dz.toNat d1.toNat f.toNat rd.toNat).instr = some (.init ord (BitVec.ofInt 32 n) dz d1 f rd)) ∧
  (∀ idx : Int, -2147483648 ≤ idx → idx ≤ 2147483647 → ∀ line ∈ [AsmLine.setpx idx, AsmLine.setled idx],
    (∀ v : Word24, (line (.packed v)).instr = some (.setpxP (BitVec.ofInt 32 idx) (0#8 ++ v))) ∧
    (∀ r g b : Byte, (line (.rgb r g b)).instr = some (.setpxC (BitVec.ofInt 32 idx) (0#8 ++ r ++ g ++ b))) ∧
    (∀ r g b a : Byte, (line (.rgba r g b a)).instr = some (.setpxA (BitVec.ofInt 32 idx) (a ++ r ++ g ++ b)))) ∧
  (∀ x y w : Word, ∀ line ∈ [AsmLine.setpxm x.toInt y.toInt w.toInt, AsmLine.setledm x.toInt y.toInt w.toInt],
    (∀ v : Word24, (line (.packed v)).instr = some (.setpxmP x y w (0#8 ++ v))) ∧
    (∀ r g b : Byte, (line (.rgb r g b)).instr = some (.setpxmC x y w (0#8 ++ r ++ g ++ b))) ∧
    (∀ r g b a : Byte, (line (.rgba r g b a)).instr = some (.setpxmA x y w (a ++ r ++ g ++ b)))) ∧
  (∀ flag, (AsmLine.setopt flag).instr = some (.setopt flag)) ∧
  AsmLine.encode.instr = some .encode ∧ AsmLine.start.instr = some .start ∧ AsmLine.wait.instr = some .wait ∧
  AsmLine.cleanup.instr = some .cleanup ∧
  (∀ (l : AsmLine) (i : Instr), l.instr = some i → i.wellFormed = true) ∧
  (∀ v, packedColor (colourWord (.packed v)) = .packed v) ∧
  (∀ r g b, structColor (colourWord (.rgb r g b)) = .rgb r g b) ∧
  (∀ r g b a, alphaColor (colourWord (.rgba r g b a)) = .rgba r g b a)

/-- Whatever text assembles, its words decode to one well-formed command and nothing is left over; and lines of the spec's
examples and vectors, one for each written form (two of them in their other spelling), assemble to the words printed beside
them (30_encoding R55, R56).  That a variant that does not match the colour and a missing operand stand for no words is the model's choice, log 12. -/
def Obligations.TextAssemblesToOneCommand : Prop :=
  (∀ (text : String) (ws : List Word), assemble text = some ws → ∃ i, decode ws = .ok i [] ∧ i.wellFormed = true) ∧
  assemble "CREATE 10, GRB" = some [0x01000002#32, 0x0000000A#32] ∧
  assemble "CREATE -1, #6" = some [0x01000006#32, 0xFFFFFFFF#32] ∧
  assemble "SETPX 5, #FF0000" = some [0x02000000#32, 0x00000005#32, 0x00FF0000#32] ∧
  assemble "SETPX.C 1, rgb(0x44,0x55,0x66)" = some [0x02000001#32, 0x00000001#32, 0x00445566#32] ∧
  assemble "SETLED 3, rgba(0xAA,0xBB,0xCC,0x7F)" = some [0x02000002#32, 0x00000003#32, 0x7FAABBCC#32] ∧
  assemble "SETPXM 10, 2, -4, #010203" = some [0x03000000#32, 0x0000000A#32, 2#32, 0xFFFFFFFC#32, 0x00010203#32] ∧
  assemble "SETLEDM 1, 2, 4, rgb(0x10, 0x20, 0x30)" = some [0x03000001#32, 1#32, 2#32, 4#32, 0x00102030#32] ∧
  assemble "SETPXM 3, 3, 4, rgba(1, 2, 3, 255)" = some [0x03000002#32, 3#32, 3#32, 4#32, 0xFF010203#32] ∧
  assemble "SETOPT 1" = some [0x04000001#32] ∧ assemble "SETOPT 0" = some [0x04000000#32] ∧
  assemble "ENCODE" = some [0x05000000#32] ∧
  assemble "INIT 2, GRB, 3, 6, 800000, 50" = some [0x10000002#32, 2#32, 3#32, 6#32, 0x000C3500#32, 0x32#32] ∧
  assemble "START" = some [0x11000000#32] ∧ assemble "WAIT" = some [0x12000000#32] ∧
  assemble "CLEANUP" = some [0x13000000#32] ∧
  assemble "SETPX.A 5, #FF0000" = none ∧ assemble "CREATE 10" = none

/-! ### The Color Model (40_color_model) -/

/-- The six channel orders, their eighteen primary-colour words, and the example each rule gives (R69 to R74). -/
def Obligations.PermuteByOrder : Prop :=
  (∀ r g b : Byte,
    permute .rgb r g b = r ++ g ++ b ∧ permute .rbg r g b = r ++ b ++ g ∧ permute .grb r g b = g ++ r ++ b ∧
    permute .gbr r g b = g ++ b ++ r ∧ permute .brg r g b = b ++ r ++ g ∧ permute .bgr r g b = b ++ g ++ r) ∧
  (∀ v : Word24, permute .rgb (unpack v).1 (unpack v).2.1 (unpack v).2.2 = v) ∧
  ([ChannelOrder.rgb, .rbg, .grb, .gbr, .brg, .bgr].map fun o => (permute o 0xFF 0 0, permute o 0 0xFF 0, permute o 0 0 0xFF)) =
    [(0xFF0000#24, 0x00FF00#24, 0x0000FF#24), (0xFF0000#24, 0x0000FF#24, 0x00FF00#24),
     (0x00FF00#24, 0xFF0000#24, 0x0000FF#24), (0x0000FF#24, 0xFF0000#24, 0x00FF00#24),
     (0x00FF00#24, 0x0000FF#24, 0xFF0000#24), (0x0000FF#24, 0x00FF00#24, 0xFF0000#24)] ∧
  ([ChannelOrder.rgb, .rbg, .grb, .gbr, .brg, .bgr].map fun o => permute o 0x12 0x34 0x56) =
    [0x123456#24, 0x125634#24, 0x341256#24, 0x345612#24, 0x561234#24, 0x563412#24]

/-- "permute is a bijection on byte triples for each ord" (R68). -/
def Obligations.PermuteIsBijective : Prop :=
  ∀ (o : ChannelOrder),
    (∀ r g b r' g' b', permute o r g b = permute o r' g' b' → r = r' ∧ g = g' ∧ b = b') ∧
    (∀ w : Word24, ∃ r g b, permute o r g b = w)

/-- The alpha factor: the division first, truncating; so unity at 255 and zero below (R67). -/
def Obligations.AlphaScaleIsAllOrNothing : Prop :=
  ∀ c a : Byte, (scale c a).toNat = c.toNat * (a.toNat / 255) ∧ scale c a = if a = 255#8 then c else 0#8

/-- A packed slot: unpacked as RGB and permuted while the fast path is off, its raw value while it is on (R75, R76). -/
def Obligations.PackedSlotWord : Prop :=
  (∀ (v : Word24) (o : ChannelOrder),
    wordOfSlot (.packed v) o false = permute o (v.extractLsb' 16 8) (v.extractLsb' 8 8) (v.extractLsb' 0 8) ∧
    wordOfSlot (.packed v) o true = v) ∧
  (∀ v : Word24, wordOfSlot (.packed v) .rgb false = v) ∧
  (∀ (o : ChannelOrder) (opt : Bool), wordOfSlot (.packed 0#24) o opt = 0#24) ∧
  (∀ (v : Word24) (o : ChannelOrder), wordOfSlot (.packed v) o true = wordOfSlot (.packed v) o false ↔
    o = .rgb ∨ permute o (v.extractLsb' 16 8) (v.extractLsb' 8 8) (v.extractLsb' 0 8) = v) ∧
  wordOfSlot (.packed 0xFF0000#24) .grb false = 0x00FF00#24 ∧ wordOfSlot (.packed 0x123456#24) .grb true = 0x123456#24

/-- A struct slot is permuted whatever the flag; its channels come back under RGB order (R77). -/
def Obligations.StructSlotWord : Prop :=
  ∀ (r g b : Byte) (o : ChannelOrder) (opt : Bool),
    wordOfSlot (.rgb r g b) o opt = permute o r g b ∧ unpack (wordOfSlot (.rgb r g b) .rgb opt) = (r, g, b) ∧
    wordOfSlot (.rgb 0x10 0x20 0x30) .bgr true = 0x302010#24

/-- A four-channel slot is scaled, then permuted: the three-channel word at full alpha, black below; the slot keeps its
four channels as they arrive in the colour word (R78). -/
def Obligations.AlphaSlotWord : Prop :=
  ∀ (r g b a : Byte) (o : ChannelOrder) (opt : Bool),
    wordOfSlot (.rgba r g b a) o opt = permute o (scale r a) (scale g a) (scale b a) ∧
    wordOfSlot (.rgba r g b a) o opt = (if a = 255#8 then wordOfSlot (.rgb r g b) o opt else 0#24) ∧
    alphaColor (a ++ r ++ g ++ b) = .rgba r g b a ∧
    wordOfSlot (.rgba 0x77 0x88 0x99 0xFF) .grb false = 0x887799#24 ∧
    wordOfSlot (.rgba 0xAA 0xBB 0xCC 0x7F) .grb false = 0#24

/-- "`opt` is read only for `PACKED` slots, and `ord` is read for every case except `PACKED` with `opt = 1`" (R80). -/
def Obligations.FlagAndOrderReadByTag : Prop :=
  (∀ r g b o, wordOfSlot (.rgb r g b) o true = wordOfSlot (.rgb r g b) o false) ∧
  (∀ r g b a o, wordOfSlot (.rgba r g b a) o true = wordOfSlot (.rgba r g b a) o false) ∧
  (∀ v o o', wordOfSlot (.packed v) o true = wordOfSlot (.packed v) o' true) ∧
  (∃ v o, wordOfSlot (.packed v) o true ≠ wordOfSlot (.packed v) o false) ∧
  (∃ v o o', wordOfSlot (.packed v) o false ≠ wordOfSlot (.packed v) o' false) ∧
  (∃ r g b o o', ∀ opt, wordOfSlot (.rgb r g b) o opt ≠ wordOfSlot (.rgb r g b) o' opt) ∧
  (∃ r g b a o o', ∀ opt, wordOfSlot (.rgba r g b a) o opt ≠ wordOfSlot (.rgba r g b a) o' opt)

/-! ### The Sequence Buffer commands (41_buffer_commands) -/

/-- CREATE completes: where no buffer exists, `ord` names an order and `0 <= n <= N_MAX`, it makes a buffer of `n` black
slots, with the flag off, and changes nothing else; it makes no adapter call (R86). -/
def Obligations.CreateMakesBlackBuffer : Prop :=
  ∀ (s : State) (ord : BitVec 3) (n : Word) (o : ChannelOrder),
    s.life = .empty → ChannelOrder.ofCode ord = some o → 0 ≤ n.toInt → n.toInt ≤ s.cfg.nMax.val →
    ∃ t, exec (.create ord n) s = .next t ∧
      t = { s with life := .core, num := n.toInt.toNat, ord := o, opt := false, slots := t.slots,
                   trace := s.trace ++ [.response .ok] } ∧
      ∀ i < t.num, t.slot i = .packed 0#24

/-- When CREATE and INIT refuse, in the order of 60_exceptions R143: an existing buffer (IllegalState), a code that names
no order (ConfigError with the code), a count outside `0 .. N_MAX` (ConfigError with the count).  A refused INIT changes
nothing and makes no adapter call (R86, R138, 43_facade_adapter R111). -/
def Obligations.ConstructorRefusals : Prop :=
  ∀ (s : State) (ord : BitVec 3) (n dz d1 f rd : Word) (i : Instr), i = .create ord n ∨ i = .init ord n dz d1 f rd →
    (s.life ≠ .empty → AnswersErr (exec i s) s (.illegalState s.life)) ∧
    (s.life = .empty → 5 < ord.toNat → AnswersErr (exec i s) s (.configError ord.toNat)) ∧
    (s.life = .empty → ord.toNat ≤ 5 → n.toInt < 0 ∨ (s.cfg.nMax.val : Int) < n.toInt →
      AnswersErr (exec i s) s (.configError n.toInt))

/-- The codes of the six orders, and no others (30_encoding R49). -/
def Obligations.OrderCodes : Prop :=
  (∀ (c : BitVec 3) (o : ChannelOrder), ChannelOrder.ofCode c = some o ↔ c = o.code) ∧
  ([ChannelOrder.rgb, .rbg, .grb, .gbr, .brg, .bgr].map ChannelOrder.code) = [0#3, 1#3, 2#3, 3#3, 4#3, 5#3]

/-- SETPX completes: with a buffer and an index inside it, each form replaces that one slot by the Pixel Color of its
colour word and changes nothing else (R87, R88, R89, R96). -/
def Obligations.SetpxReplacesOneSlot : Prop :=
  ∀ (s : State) (index cw : Word), s.slots.wf → s.life ≠ .empty → 0 ≤ index.toInt → index.toInt < s.num →
    (cw.extractLsb' 24 8 = 0#8 →
      WritesSlot (exec (.setpxP index cw) s) s index.toInt.toNat (.packed (cw.extractLsb' 0 24)) ∧
      WritesSlot (exec (.setpxC index cw) s) s index.toInt.toNat
        (.rgb (cw.extractLsb' 16 8) (cw.extractLsb' 8 8) (cw.extractLsb' 0 8))) ∧
    WritesSlot (exec (.setpxA index cw) s) s index.toInt.toNat
      (.rgba (cw.extractLsb' 16 8) (cw.extractLsb' 8 8) (cw.extractLsb' 0 8) (cw.extractLsb' 24 8))

/-- SETPXM completes: the same at the exact index `y*rowWidth + x`, whatever the three operands are (R90 to R93). -/
def Obligations.SetpxmReplacesSlotAtMatrixIndex : Prop :=
  ∀ (s : State) (x y w cw : Word), s.slots.wf → s.life ≠ .empty →
    0 ≤ y.toInt * w.toInt + x.toInt → y.toInt * w.toInt + x.toInt < s.num →
    (cw.extractLsb' 24 8 = 0#8 →
      WritesSlot (exec (.setpxmP x y w cw) s) s (y.toInt * w.toInt + x.toInt).toNat (.packed (cw.extractLsb' 0 24)) ∧
      WritesSlot (exec (.setpxmC x y w cw) s) s (y.toInt * w.toInt + x.toInt).toNat
        (.rgb (cw.extractLsb' 16 8) (cw.extractLsb' 8 8) (cw.extractLsb' 0 8))) ∧
    WritesSlot (exec (.setpxmA x y w cw) s) s (y.toInt * w.toInt + x.toInt).toNat
      (.rgba (cw.extractLsb' 16 8) (cw.extractLsb' 8 8) (cw.extractLsb' 0 8) (cw.extractLsb' 24 8))

/-- When a set refuses, in the order of 60_exceptions R143: a reserved bit of a packed or three-channel colour word
(IllegalCommand with the word), no buffer (IllegalState), an index outside the buffer (BoundsViolation with the exact
index).  Nothing but `FAULT` changes (R85, R95, R137). -/
def Obligations.SetRefusals : Prop :=
  ∀ (s : State) (i : Instr) (index : Int), pixelIndex i = some index →
    (∀ cw, i.wellFormed = false → (∃ j, i = .setpxP j cw ∨ i = .setpxC j cw) ∨
        (∃ x y w, i = .setpxmP x y w cw ∨ i = .setpxmC x y w cw) →
      AnswersErr (exec i s) s (.illegalCommand cw)) ∧
    (i.wellFormed = true → s.life = .empty → AnswersErr (exec i s) s (.illegalState .empty)) ∧
    (i.wellFormed = true → s.life ≠ .empty → index < 0 ∨ s.num ≤ index →
      AnswersErr (exec i s) s (.boundsViolation index))

/-- The matrix index is the exact `y*rowWidth + x`, which fits 64 signed bits, and any legal linear index may be reached:
the matrix set is the indexed set at that index (R93, 20_memory R37). -/
def Obligations.MatrixSetIsIndexedSet : Prop :=
  (∀ x y w : Word, matrixIndex x y w = y.toInt * w.toInt + x.toInt ∧
    -(2 ^ 62) - 2 ^ 31 ≤ matrixIndex x y w ∧ matrixIndex x y w ≤ 2 ^ 62 + 2 ^ 31) ∧
  (∀ (s : State) (x y w cw : Word), 0 ≤ y.toInt * w.toInt + x.toInt → y.toInt * w.toInt + x.toInt < 2 ^ 31 →
    exec (.setpxmP x y w cw) s = exec (.setpxP (BitVec.ofInt 32 (y.toInt * w.toInt + x.toInt)) cw) s ∧
    exec (.setpxmC x y w cw) s = exec (.setpxC (BitVec.ofInt 32 (y.toInt * w.toInt + x.toInt)) cw) s ∧
    exec (.setpxmA x y w cw) s = exec (.setpxA (BitVec.ofInt 32 (y.toInt * w.toInt + x.toInt)) cw) s)

/-- A SETPX or SETPXM that answers `OK` has a final index inside the buffer, changes that slot and nothing else, and
changes only the three bytes of that slot in what an encode delivers (R96). -/
def Obligations.SetTouchesOneSlotOnly : Prop :=
  ∀ (s t : State) (i : Instr) (index : Int), pixelIndex i = some index → exec i s = .next t →
    t.trace = s.trace ++ [.response .ok] →
    0 ≤ index ∧ index < s.num ∧ t = { s with slots := t.slots, trace := t.trace } ∧
    (∀ j : Nat, (j : Int) ≠ index → t.slot j = s.slot j) ∧
    ∀ k : Nat, (k : Int) < 3 * index ∨ 3 * index + 3 ≤ k → t.encodedFrame[k]? = s.encodedFrame[k]?

/-- A set copies its tag and colour word into the 34 bits of the slot unchanged (10_state R15). -/
def Obligations.SlotLayoutKeepsColourWord : Prop :=
  ∀ cw : Word,
    (cw.extractLsb' 24 8 = 0#8 → (packedColor cw).slotBits = 0#2 ++ cw ∧ (structColor cw).slotBits = 1#2 ++ cw) ∧
    (alphaColor cw).slotBits = 2#2 ++ cw

/-- SETOPT completes: with a buffer it writes the flag and changes nothing else, no slot among it; without one it answers
IllegalState (R94). -/
def Obligations.SetoptWritesFlag : Prop :=
  (∀ (s : State) (flag : Bool),
    (s.life ≠ .empty →
      exec (.setopt flag) s = .next { s with opt := flag, trace := s.trace ++ [.response .ok] }) ∧
    (s.life = .empty → AnswersErr (exec (.setopt flag) s) s (.illegalState .empty))) ∧
  encode (.setopt false) = [0x04000000#32] ∧ encode (.setopt true) = [0x04000001#32]

/-! ### ENCODE (42_encode_serializer) -/

/-- ENCODE completes: with a buffer it delivers one frame of `3 * NUM` bytes, byte `k` being that byte of the word of slot
`k div 3` in the state as the command began, and changes no slot and no register (R100, R101). -/
def Obligations.EncodeDeliversFrame : Prop :=
  ∀ s : State, s.life ≠ .empty →
    ∃ f : Frame, exec .encode s =
        .next { s with scan := 0, trace := s.trace ++ [.frame f, .response .ok] } ∧
      f.length = 3 * s.num ∧
      ∀ k < 3 * s.num, f[k]? = some ((wordOfSlot (s.slot (k / 3)) s.ord s.opt >>> (8 * (2 - k % 3))).setWidth 8)

/-- Without a buffer ENCODE answers IllegalState and delivers no frame; an empty buffer is no error and gives an empty
frame (R100, R104). -/
def Obligations.EncodeOfNoneAndOfEmpty : Prop :=
  ∀ s : State,
    (s.life = .empty → AnswersErr (exec .encode s) s (.illegalState .empty)) ∧
    (s.life ≠ .empty → s.num = 0 →
      exec .encode s = .next { s with scan := 0, trace := s.trace ++ [.frame [], .response .ok] })

/-- After a CREATE or INIT that made a buffer, and as long as no slot has been written, every ENCODE delivers `3 * N` zero
bytes, for every order and both values of the flag (R106). -/
def Obligations.FreshBufferEncodesToZeros : Prop :=
  ∀ (s t u : State) (ord : BitVec 3) (n dz d1 f rd : Word) (i : Instr),
    i = .create ord n ∨ i = .init ord n dz d1 f rd → s.life = .empty → exec i s = .next t → t.life ≠ .empty →
    u.life ≠ .empty → u.num = t.num → u.slots = t.slots →
    (t.num : Int) = n.toInt ∧
    exec .encode u = .next { u with
      scan := 0, trace := u.trace ++ [.frame (List.replicate (3 * n.toInt.toNat) 0#8), .response .ok] }

/-- Two ENCODEs with one successful set of slot `i` between them deliver frames that agree outside the three bytes of that
slot (R107). -/
def Obligations.FramesDifferInOneSlotOnly : Prop :=
  ∀ (s s₁ s₂ s₃ : State) (i : Instr) (index : Int), pixelIndex i = some index → s.life ≠ .empty →
    exec .encode s = .next s₁ → exec i s₁ = .next s₂ → s₂.trace = s₁.trace ++ [.response .ok] →
    exec .encode s₂ = .next s₃ →
    ∃ f g : Frame, s₁.trace = s.trace ++ [.frame f, .response .ok] ∧ s₃.trace = s₂.trace ++ [.frame g, .response .ok] ∧
      f.length = g.length ∧ ∀ k : Nat, (k : Int) < 3 * index ∨ 3 * index + 3 ≤ k → f[k]? = g[k]?

/-- The byte-by-byte view delivers the same frame: after `k` micro-steps `scan = k` and `k` bytes stand, and after
`3 * NUM` of them the frame is the one ENCODE emits and no further byte follows (R105, 10_state R21). -/
def Obligations.MicroStepsDeliverTheFrame : Prop :=
  ∀ s : State, s.life ≠ .empty →
    (∀ k ≤ 3 * s.num, (microRun s k).scan = k ∧ (microRun s k).frame.length = k) ∧
    exec .encode s = .next { s with
      scan := 0, trace := s.trace ++ [.frame (microRun s (3 * s.num)).frame, .response .ok] } ∧
    microStep s (microRun s (3 * s.num)) = microRun s (3 * s.num)

/-! ### The Driver Facade (43_facade_adapter) -/

/-- INIT completes: where no buffer exists, its arguments are legal and the adapter answers both calls `ok`, it commits the
black buffer, the profile and `LIFE = FACADE`, and the calls are `initialize()` and then `configurePattern` with the byte
count and the four timing words unchanged (R111, R120, R121). -/
def Obligations.InitConfiguresAdapter : Prop :=
  ∀ (s : State) (ord : BitVec 3) (n dz d1 f rd : Word) (o : ChannelOrder) (a₁ a₂ : Adapter),
    s.life = .empty → ChannelOrder.ofCode ord = some o → 0 ≤ n.toInt → n.toInt ≤ s.cfg.nMax.val →
    s.adapter.call .initialise = .ok a₁ → a₁.call (.configurePattern ⟨3 * n.toInt.toNat, f, rd, dz, d1⟩) = .ok a₂ →
    ∃ t, exec (.init ord n dz d1 f rd) s = .next t ∧
      t = { s with
        life := .facade, num := n.toInt.toNat, ord := o, opt := false, slots := t.slots
        tZero := dz, tOne := d1, tFreq := f, tReset := rd
        trace := s.trace ++ [.call .initialise, .call (.configurePattern ⟨3 * n.toInt.toNat, f, rd, dz, d1⟩), .response .ok]
        adapter := a₂ } ∧
      ∀ i < t.num, t.slot i = .packed 0#24

/-- An INIT whose adapter call fails keeps what it has committed, answers AdapterFailure with the signal, and does not make
the call that is left (R111, R125). -/
def Obligations.InitKeepsStateOnAdapterFailure : Prop :=
  ∀ (s : State) (ord : BitVec 3) (n dz d1 f rd : Word) (o : ChannelOrder) (a₁ a₂ : Adapter) (sig : AdpSignal),
    s.life = .empty → ChannelOrder.ofCode ord = some o → 0 ≤ n.toInt → n.toInt ≤ s.cfg.nMax.val →
    (s.adapter.call .initialise = .fail sig a₁ →
      ∃ t, exec (.init ord n dz d1 f rd) s = .next t ∧ t.life = .facade ∧ t.num = n.toInt.toNat ∧ t.ord = o ∧
        t.opt = false ∧ (∀ i < t.num, t.slot i = .packed 0#24) ∧
        t.tZero = dz ∧ t.tOne = d1 ∧ t.tFreq = f ∧ t.tReset = rd ∧
        t.fault = (if s.fault = none then some .adapterFailure else s.fault) ∧
        t.trace = s.trace ++ [.call .initialise, .response (.err (.adapterFailure sig))]) ∧
    (s.adapter.call .initialise = .ok a₁ → a₁.call (.configurePattern ⟨3 * n.toInt.toNat, f, rd, dz, d1⟩) = .fail sig a₂ →
      ∃ t, exec (.init ord n dz d1 f rd) s = .next t ∧ t.life = .facade ∧ t.num = n.toInt.toNat ∧ t.ord = o ∧
        t.opt = false ∧ (∀ i < t.num, t.slot i = .packed 0#24) ∧
        t.tZero = dz ∧ t.tOne = d1 ∧ t.tFreq = f ∧ t.tReset = rd ∧
        t.fault = (if s.fault = none then some .adapterFailure else s.fault) ∧
        t.trace = s.trace ++ [.call .initialise, .call (.configurePattern ⟨3 * n.toInt.toNat, f, rd, dz, d1⟩),
          .response (.err (.adapterFailure sig))])

/-- START completes: a facade hands the adapter the frame ENCODE would deliver, `3 * NUM` bytes, and delivers none itself;
on `ok` it answers `OK`, on `fail(sig)` AdapterFailure; no register but `FAULT` changes (R112, R122, R125). -/
def Obligations.StartSendsTheFrame : Prop :=
  ∀ (s : State) (f : Frame) (a : Adapter) (sig : AdpSignal), s.life = .facade → f.length = 3 * s.num →
    (∀ k < 3 * s.num, f[k]? = some ((wordOfSlot (s.slot (k / 3)) s.ord s.opt >>> (8 * (2 - k % 3))).setWidth 8)) →
    (s.adapter.call (.send f) = .ok a →
      exec .start s = .next { s with
        scan := 0, adapter := a, trace := s.trace ++ [.call (.send f), .response .ok] }) ∧
    (s.adapter.call (.send f) = .fail sig a →
      exec .start s = .next { s with
        scan := 0, adapter := a, fault := if s.fault = none then some .adapterFailure else s.fault
        trace := s.trace ++ [.call (.send f), .response (.err (.adapterFailure sig))] })

/-- WAIT and CLEANUP complete: a facade forwards the one call, whatever came before, and answers `OK` or AdapterFailure;
no register but `FAULT` changes, and CLEANUP leaves the buffer (R113, R114, R117, R125). -/
def Obligations.WaitAndCleanupForward : Prop :=
  ∀ (s : State) (a : Adapter) (sig : AdpSignal) (i : Instr) (c : AdpCall), s.life = .facade →
    (i = .wait ∧ c = .awaitCompletion) ∨ (i = .cleanup ∧ c = .teardown) →
    (s.adapter.call c = .ok a →
      exec i s = .next { s with adapter := a, trace := s.trace ++ [.call c, .response .ok] }) ∧
    (s.adapter.call c = .fail sig a →
      exec i s = .next { s with
        adapter := a, fault := if s.fault = none then some .adapterFailure else s.fault
        trace := s.trace ++ [.call c, .response (.err (.adapterFailure sig))] })

/-- A WAIT whose call is never answered gives no response and keeps every register; the block then takes no word, and only a
reset ends the wait (R113, 60_exceptions R149).  That an oracle may list no answer for one WAIT is log 4, and that waiting is
a step to the same state is log 7: both are the model's choice. -/
def Obligations.UnansweredCallWaitsForReset : Prop :=
  ∀ (s : State) (a : Adapter), s.life = .facade → s.adapter.call .awaitCompletion = .unanswered a →
    ∃ t, exec .wait s = .next t ∧
      t = { s with adapter := a, trace := s.trace ++ [.call .awaitCompletion], port := .unanswered } ∧
      (∀ w rest, t.inputs = .word w :: rest → step t = .next t) ∧ (t.inputs = [] → step t = .next t) ∧
      (∀ rest, t.inputs = .reset :: rest → step t = .next (resetBlock { t with inputs := rest }))

/-- With the reference adapter and a frame in flight, WAIT is held; the adapter then completes the frame, and only then
WAIT answers: `OK`, or AdapterFailure where the oracle puts `fail(sig)` in place of `ok` (R113, R123, R126; that the adapter
completes while it is awaited, and answers `ok` where no answer is listed, is the model's choice, log 4). -/
def Obligations.ReferenceAdapterHoldsWait : Prop :=
  ∀ (s : State) (r : RefAdapter) (answers : List AdpAnswer) (f : Frame), s.life = .facade →
    s.adapter = .reference r answers → r.torn = false → r.inflight = some f →
    s.inputs = [] ∨ (∃ w rest, s.inputs = .word w :: rest) →
    ∃ t u, exec .wait s = .next t ∧ step t = .next u ∧
      t = { s with trace := s.trace ++ [.call .awaitCompletion], port := .holding } ∧
      u = { t with adapter := .reference { r with inflight := none, log := r.log ++ [f] } answers } ∧
      (answers = [] → step u = .next { u with trace := u.trace ++ [.response .ok], port := .ready }) ∧
      (∀ rest, answers = .ok :: rest → step u = .next { u with
        adapter := .reference { r with inflight := none, log := r.log ++ [f] } rest
        trace := u.trace ++ [.response .ok], port := .ready }) ∧
      (∀ sig rest, answers = .fail sig :: rest → step u = .next { u with
        adapter := .reference { r with inflight := none, log := r.log ++ [f] } rest
        fault := if s.fault = none then some .adapterFailure else s.fault
        trace := u.trace ++ [.response (.err (.adapterFailure sig))], port := .ready })

/-- Where the reference adapter refuses, whatever answers are listed, the model stops by name: `send` unless configured, not
torn, nothing in flight and the configured length; `awaitCompletion` after teardown; `teardown` with a frame in flight or
twice; `initialize` with a frame in flight (R126).  R126 marks this adapter as the spec's own assumption; that a refused call
is the outcome `adapterOrder` of the step is log 14, and that the listed answers stand only in place of `ok` is log 4: both
are the model's choice. -/
def Obligations.ReferenceAdapterRefusals : Prop :=
  ∀ (s : State) (r : RefAdapter) (answers : List AdpAnswer), s.adapter = .reference r answers →
    (s.life = .facade →
      (exec .start s = .refused (.adapterOrder (.send s.encodedFrame)) ↔
        ¬ (r.configured = true ∧ r.torn = false ∧ r.inflight = none ∧
          r.pattern.map Pattern.byteCount = some (3 * s.num))) ∧
      (exec .wait s = .refused (.adapterOrder .awaitCompletion) ↔ r.torn = true) ∧
      (exec .cleanup s = .refused (.adapterOrder .teardown) ↔ (r.inflight ≠ none ∨ r.torn = true))) ∧
    (∀ (ord : BitVec 3) (o : ChannelOrder) (n dz d1 f rd : Word), s.life = .empty → ChannelOrder.ofCode ord = some o →
      0 ≤ n.toInt → n.toInt ≤ s.cfg.nMax.val →
      (exec (.init ord n dz d1 f rd) s = .refused (.adapterOrder .initialise) ↔ r.inflight ≠ none))

/-- The adapter's own step: between commands, inside an incomplete command and inside a command it changes the adapter and
nothing else.  The reference adapter completes the frame it has in flight (R126, 00_scope R4; where the step stands among the
inputs is the model's form of its schedule, log 4). -/
def Obligations.AdapterStepChangesOnlyAdapter : Prop :=
  (∀ (s : State) (ws : List Word) (rest : List Input), s.port = .ready → decode ws = .incomplete →
    s.inputs = ws.map Input.word ++ .complete :: rest →
    step s = .next { s with adapter := s.adapter.complete, inputs := ws.map Input.word ++ rest }) ∧
  (∀ (s : State) (rest : List Input), s.port ≠ .ready → s.inputs = .complete :: rest →
    step s = .next { s with adapter := s.adapter.complete, inputs := rest }) ∧
  (∀ (r : RefAdapter) (answers : List AdpAnswer),
    (∀ f, r.inflight = some f →
      (Adapter.reference r answers).complete = .reference { r with inflight := none, log := r.log ++ [f] } answers) ∧
    (r.inflight = none → (Adapter.reference r answers).complete = .reference r answers)) ∧
  ∀ (answers : List AdpAnswer) (completions : List Completion),
    (Adapter.oracle answers completions).complete = .oracle answers completions

/-! ### Faults and the lifecycle (60_exceptions) -/

/-- The lifecycle table: where it does not allow a legally encoded command, the answer is IllegalState with the value of
`LIFE`, and nothing but `FAULT` changes; where it does, the answer is never IllegalState (R141). -/
def Obligations.LifecycleTable : Prop :=
  ∀ (i : Instr) (s : State), i.wellFormed = true →
    (¬ lifeAllows i s.life → AnswersErr (exec i s) s (.illegalState s.life)) ∧
    (lifeAllows i s.life → ∀ t es l, exec i s = .next t →
      t.trace ≠ s.trace ++ es ++ [.response (.err (.illegalState l))])

/-- A command that answers `ERR` changes nothing but `FAULT`, except an INIT whose adapter call fails (R135; the adapter's
own state and the transient `scan` stand outside this claim). -/
def Obligations.ErrorChangesOnlyFault : Prop :=
  ∀ (i : Instr) (s t : State) (es : List Event) (e : Err), exec i s = .next t →
    t.trace = s.trace ++ es ++ [.response (.err e)] →
    ((∀ sig, e ≠ .adapterFailure sig) → es = [] ∧ AnswersErr (exec i s) s e) ∧
    (s.life ≠ .empty → t = { s with
      fault := if s.fault = none then some e.cause else s.fault
      trace := t.trace, adapter := t.adapter, scan := t.scan })

/-- `FAULT` takes the first cause raised, an `OK` leaves it, and only a reset clears it (R140). -/
def Obligations.FaultIsSticky : Prop :=
  ∀ s t : State, step s = .next t →
    (∀ es e, t.trace = s.trace ++ es ++ [.response (.err e)] →
      t.fault = if s.fault = none then some e.cause else s.fault) ∧
    (∀ es, t.trace = s.trace ++ es ++ [.response .ok] → t.fault = s.fault) ∧
    (s.fault ≠ none → t.fault ≠ s.fault →
      t.fault = none ∧
        ∃ (ws : List Word) (rest : List Input), s.inputs = ws.map Input.word ++ .reset :: rest ∧ t.inputs = rest)

/-- The codes of `LIFE` and of the fault causes, and the status output: 0 exactly while no fault is recorded, else the code
of the cause recorded (10_state R11, R18, 60_exceptions R136). -/
def Obligations.StatusOutputShowsFault : Prop :=
  [Life.empty, .core, .facade].map Life.code = [0#2, 1#2, 2#2] ∧
  [Cause.boundsViolation, .configError, .illegalCommand, .illegalState, .adapterFailure].map Cause.code =
    [1#3, 2#3, 3#3, 4#3, 5#3] ∧
  ∀ s : State, (s.faultCause = 0#3 ↔ s.fault = none) ∧ ∀ c : Cause, s.faultCause = c.code ↔ s.fault = some c

/-- Every command gives exactly one response, its last output, or none, which only a WAIT does; a frame comes only from
ENCODE, and calls come only from INIT where there is no buffer yet and from START, WAIT and CLEANUP of a facade (00_scope R7,
43_facade_adapter R119). -/
def Obligations.ExactlyOneResponse : Prop :=
  ∀ (i : Instr) (s t : State), s.port = .ready → exec i s = .next t →
    ∃ es, (t.port = .ready → ∃ r, t.trace = s.trace ++ es ++ [.response r]) ∧
      (t.port ≠ .ready → i = .wait ∧ t.trace = s.trace ++ es) ∧ responses es = [] ∧
      (calls es ≠ [] → (s.life = .empty ∧ ∃ ord n dz d1 f rd, i = .init ord n dz d1 f rd) ∨
        (s.life = .facade ∧ (i = .start ∨ i = .wait ∨ i = .cleanup))) ∧
      (frames es ≠ [] → i = .encode ∧ es = [.frame s.encodedFrame])

/-- Every command but WAIT responds; and WAIT of a facade responds exactly unless its call is never answered or is held
(70_reset_and_hazards R172, 60_exceptions R149; 93 U21). -/
def Obligations.EveryCommandButWaitResponds : Prop :=
  ∀ (i : Instr) (s t : State), s.port = .ready → exec i s = .next t →
    (i ≠ .wait → t.port = .ready ∧ ∃ es r, t.trace = s.trace ++ es ++ [.response r]) ∧
    (i = .wait → s.life = .facade →
      (t.port ≠ .ready ↔ ∃ a, s.adapter.call .awaitCompletion = .unanswered a ∨ s.adapter.call .awaitCompletion = .hold a))

/-- The block never stops with a machine fault, and refuses only a call order the reference adapter refuses (R144, R145,
43_facade_adapter R126). -/
def Obligations.StopsOnlyAtReferenceAdapter : Prop :=
  ∀ s : State, (∃ t, step s = .next t) ∨
    ∃ c r answers, step s = .refused (.adapterOrder c) ∧ s.adapter = .reference r answers ∧ r.call c = .refuse

/-! ### One step, reset, and the machine as a whole -/

/-- Between commands, a step is `exec` of the decoded command, with its words taken from the stream (20_memory R43); or, where
a `tick` stands directly behind the command, its first piece (42_encode_serializer R105; the tick is the model's, log 9). -/
def Obligations.StepRunsDecodedCommand : Prop :=
  ∀ (s : State) (i : Instr) (rest : List Word), s.port = .ready → decode (leadingWords s.inputs) = .ok i rest →
    ((rest = [] → ∀ l, afterWords s.inputs ≠ .tick :: l) →
      step s = exec i { s with inputs := rest.map Input.word ++ afterWords s.inputs }) ∧
    (∀ l, rest = [] → afterWords s.inputs = .tick :: l → step s = beginCommand i { s with inputs := l })

/-- Between commands, if the words of a well-formed command stand first in the stream, the step runs exactly that command
and takes exactly those words (20_memory R43, 30_encoding R51); with a `tick` directly behind them it runs the command's
first piece (42_encode_serializer R105; the tick is the model's, log 9). -/
def Obligations.PresentedCommandRuns : Prop :=
  ∀ (s : State) (i : Instr) (tail : List Input), s.port = .ready → i.wellFormed = true →
    s.inputs = (encode i).map Input.word ++ tail →
    ((∀ l, tail ≠ .tick :: l) → step s = exec i { s with inputs := tail }) ∧
    (∀ l, tail = .tick :: l → step s = beginCommand i { s with inputs := l })

/-- Looked at piece by piece, every command comes to the same state as in one step, in at most `3 * NUM + 3` pieces, if
neither a reset nor a step of the adapter stands between them; and it is refused where it is refused in one step
(42_encode_serializer R105, 70_reset_and_hazards R172; the pieces of the facade commands are the model's, log 9). -/
def Obligations.PiecesReachTheCommand : Prop :=
  ∀ (s : State) (i : Instr) (tail : List Input), s.port = .ready → s.frame = [] → s.scan = 0 → i.wellFormed = true →
    s.inputs = (encode i).map Input.word ++ .tick :: tail → tail = [] ∨ (∃ w rest, tail = .word w :: rest) →
    (∀ t, exec i { s with inputs := tail } = .next t → ∃ n, 0 < n ∧ n ≤ 3 * s.num + 3 ∧ steps n s = .next t) ∧
    (∀ r, exec i { s with inputs := tail } = .refused r → ∃ n, 0 < n ∧ n ≤ 3 * s.num + 3 ∧ steps n s = .refused r)

/-- A reset that falls inside an ENCODE or START finds `k` bytes of the frame, or the frame already out or handed to the
adapter, `scan` being `3 * NUM` until the response (10_state R21), and abandons the command: no response follows, what is out
is not recalled, and a frame that is not out never comes.  A reset inside an INIT finds the first call made, or both, and
recalls neither: the adapter keeps what they did (70_reset_and_hazards R160, 42_encode_serializer R103, R105; 93 U18).  That
the adapter acts on a call the moment it is issued is log 4, and the pieces themselves are log 9. -/
def Obligations.ResetInsideACommand : Prop :=
  (∀ (s : State) (k : Nat) (tail : List Input), s.port = .ready → s.life ≠ .empty →
    s.inputs = .word 0x05000000#32 :: .tick :: (List.replicate k Input.tick ++ .reset :: tail) →
    (k ≤ 3 * s.num →
      steps (k + 1) s = .next { s with
        inputs := .reset :: tail, port := .serializing .out, scan := k, frame := (microRun s k).frame } ∧
      steps (k + 2) s = .next (resetBlock { s with inputs := tail })) ∧
    (k = 3 * s.num + 1 →
      steps (k + 1) s = .next { s with
        inputs := .reset :: tail, port := .delivered, scan := 3 * s.num, frame := s.encodedFrame
        trace := s.trace ++ [.frame s.encodedFrame] } ∧
      steps (k + 2) s = .next (resetBlock { s with inputs := tail, trace := s.trace ++ [.frame s.encodedFrame] }))) ∧
  (∀ (s : State) (k : Nat) (tail : List Input), s.port = .ready → s.life = .facade →
    s.inputs = .word 0x11000000#32 :: .tick :: (List.replicate k Input.tick ++ .reset :: tail) →
    (k ≤ 3 * s.num →
      steps (k + 1) s = .next { s with
        inputs := .reset :: tail, port := .serializing .adapter, scan := k, frame := (microRun s k).frame } ∧
      steps (k + 2) s = .next (resetBlock { s with inputs := tail })) ∧
    (∀ a, k = 3 * s.num + 1 → s.adapter.call (.send s.encodedFrame) = .ok a →
      steps (k + 1) s = .next { s with
        inputs := .reset :: tail, port := .calling (.send s.encodedFrame) .ok, scan := 3 * s.num, frame := s.encodedFrame
        adapter := a, trace := s.trace ++ [.call (.send s.encodedFrame)] } ∧
      steps (k + 2) s = .next (resetBlock { s with
        inputs := tail, adapter := a, trace := s.trace ++ [.call (.send s.encodedFrame)] }))) ∧
  (∀ (s : State) (ord : BitVec 3) (n dz d1 f rd : Word) (o : ChannelOrder) (a₁ : Adapter) (tail : List Input),
    s.port = .ready → s.life = .empty → ChannelOrder.ofCode ord = some o → 0 ≤ n.toInt → n.toInt ≤ s.cfg.nMax.val →
    s.adapter.call .initialise = .ok a₁ →
    (s.inputs = (encode (.init ord n dz d1 f rd)).map Input.word ++ .tick :: .reset :: tail →
      steps 2 s = .next (resetBlock { s with
        inputs := tail, adapter := a₁, trace := s.trace ++ [.call .initialise] })) ∧
    (∀ a₂, a₁.call (.configurePattern ⟨3 * n.toInt.toNat, f, rd, dz, d1⟩) = .ok a₂ →
      s.inputs = (encode (.init ord n dz d1 f rd)).map Input.word ++ .tick :: .tick :: .reset :: tail →
      steps 3 s = .next (resetBlock { s with
        inputs := tail, adapter := a₂
        trace := s.trace ++ [.call .initialise, .call (.configurePattern ⟨3 * n.toInt.toNat, f, rd, dz, d1⟩)] })))

/-- An illegal header answers IllegalCommand with the header, consumes one word and changes only `FAULT`; what follows is
taken as a new header (30_encoding R52, 60_exceptions R139). -/
def Obligations.IllegalHeaderAnswersError : Prop :=
  ∀ (s : State) (h : Word) (tail : List Input), s.port = .ready → s.inputs = .word h :: tail → illegalHeader h →
    AnswersErr (step s) { s with inputs := tail } (.illegalCommand h)

/-- A set whose packed or three-channel colour word has a reserved bit answers IllegalCommand with that word, whatever the
lifecycle, consumes all its words and changes only `FAULT` (30_encoding R52, 60_exceptions R143). -/
def Obligations.IllegalColourAnswersError : Prop :=
  ∀ (s : State) (i : Instr) (cw : Word) (tail : List Input), s.port = .ready →
    s.inputs = (encode i).map Input.word ++ tail → cw.extractLsb' 24 8 ≠ 0#8 →
    (∃ j, i = .setpxP j cw ∨ i = .setpxC j cw) ∨ (∃ x y w, i = .setpxmP x y w cw ∨ i = .setpxmC x y w cw) →
    AnswersErr (step s) { s with inputs := tail } (.illegalCommand cw)

/-- A command whose words have not all arrived has no effect and no response (30_encoding R53).  That waiting is a step to
the very same state, and that nothing presented at all is such a wait, is the model's choice, log 7. -/
def Obligations.IncompleteCommandWaits : Prop :=
  ∀ (s : State) (ws : List Word), s.port = .ready → s.inputs = ws.map Input.word → decode ws = .incomplete →
    step s = .next s

/-- A reset that is asserted between commands, inside an incomplete command or inside a command abandons it, gives no
response and no adapter call, leaves the adapter alone, and sets the registers to the values of 10_state R22
(70_reset_and_hazards R160, R162).  Where a reset can land, that the words of an abandoned command are dropped and that the
transient frame is cleared are the model's choice, log 9. -/
def Obligations.ResetRestoresRegisters : Prop :=
  ∀ (s : State) (ws : List Word) (rest : List Input), s.inputs = ws.map Input.word ++ .reset :: rest →
    (s.port = .ready ∧ decode ws = .incomplete) ∨ (s.port ≠ .ready ∧ ws = []) →
    ∃ t, step s = .next t ∧ t.life = .empty ∧ t.num = 0 ∧ t.ord = .rgb ∧ t.opt = false ∧
      t.tZero = 0#32 ∧ t.tOne = 0#32 ∧ t.tFreq = 0#32 ∧ t.tReset = 0#32 ∧ t.fault = none ∧ t.scan = 0 ∧ t.frame = [] ∧
      t.port = .ready ∧ t.trace = s.trace ∧ t.adapter = s.adapter ∧ t.inputs = rest ∧ t.cfg = s.cfg

/-- The machine right after reset: the registers of 10_state R22, nothing emitted.  (That nothing is emitted yet is
log 8.  That nothing is presented, the adapter beside it and `N_MAX` are logs 1, 3 and 6, and not part of this claim.) -/
def Obligations.ResetStateRegisters : Prop :=
  State.reset.life = .empty ∧ State.reset.num = 0 ∧ State.reset.ord = .rgb ∧ State.reset.opt = false ∧
  State.reset.tZero = 0#32 ∧ State.reset.tOne = 0#32 ∧ State.reset.tFreq = 0#32 ∧ State.reset.tReset = 0#32 ∧
  State.reset.fault = none ∧ State.reset.faultCause = 0#3 ∧ State.reset.scan = 0 ∧ State.reset.frame = [] ∧
  State.reset.port = .ready ∧ State.reset.trace = []

/-- The reset state satisfies the invariant (10_state R23). -/
def Obligations.ResetStateMeetsInvariant : Prop := State.reset.Inv

/-- Every step keeps the invariant, from every state that has it (10_state R23; the transients of 42_encode_serializer R105
and the places inside a command are the model's form, log 9). -/
def Obligations.StepKeepsInvariant : Prop :=
  ∀ s t : State, s.Inv → step s = .next t → t.Inv

/-- `LIFE` moves only from EMPTY to CORE or FACADE, and only a reset takes it back (10_state R11). -/
def Obligations.LifeMovesForwardUntilReset : Prop :=
  ∀ s t : State, step s = .next t →
    t.life = s.life ∨ (s.life = .empty ∧ (t.life = .core ∨ t.life = .facade)) ∨
    (t.life = .empty ∧
      ∃ (ws : List Word) (rest : List Input), s.inputs = ws.map Input.word ++ .reset :: rest ∧ t.inputs = rest)

/-- Who writes what (10_state R10): after construction no command changes `LIFE`, `NUM`, `ORD` or the timing profile; the
flag changes only by SETOPT, a slot only by a set; before it, only CREATE and INIT change any of them. -/
def Obligations.WritersOfEachRegister : Prop :=
  ∀ (i : Instr) (s t : State), exec i s = .next t →
    (s.life ≠ .empty → t.life = s.life ∧ t.num = s.num ∧ t.ord = s.ord ∧
      t.tZero = s.tZero ∧ t.tOne = s.tOne ∧ t.tFreq = s.tFreq ∧ t.tReset = s.tReset) ∧
    ((∀ ord n, i ≠ .create ord n) → (∀ ord n dz d1 f rd, i ≠ .init ord n dz d1 f rd) →
      t.life = s.life ∧ t.num = s.num ∧ t.ord = s.ord ∧
      t.tZero = s.tZero ∧ t.tOne = s.tOne ∧ t.tFreq = s.tFreq ∧ t.tReset = s.tReset ∧
      (pixelIndex i = none → t.slots = s.slots) ∧ ((∀ b, i ≠ .setopt b) → t.opt = s.opt)) ∧
    ((∀ ord n dz d1 f rd, i ≠ .init ord n dz d1 f rd) →
      t.tZero = s.tZero ∧ t.tOne = s.tOne ∧ t.tFreq = s.tFreq ∧ t.tReset = s.tReset)

/-- What has been emitted is never taken back or changed, by no later command, no write to a slot and no reset; and the
implementation's parameters never change (20_memory R39, 70_reset_and_hazards R160, 00_scope R6). -/
def Obligations.OutputsAreNeverRecalled : Prop :=
  ∀ s t : State, step s = .next t → (∃ es, t.trace = s.trace ++ es) ∧ t.cfg = s.cfg

/-- The block never looks inside a failure signal: renaming the signals in the adapter's answers renames them in what the
block emits and changes nothing else (43_facade_adapter R119, R125; 93 U9). -/
def Obligations.AdapterSignalIsOpaque : Prop :=
  ∀ (f : AdpSignal → AdpSignal) (s : State), step (s.mapSignal f) = mapOutcome f (step s)
end

