-- ==== Sys2Proof/Laws/Adapter.lean ====
section
/-! SUPPORT. One call of the adapter: everything that can come of it. -/

namespace Sys2Proof.Machine

/-- A listed answer, or `ok` when none is listed. -/
theorem answerFrom_cases (answers : List AdpAnswer) (onOk onFail : List AdpAnswer → Adapter) :
    (∃ rest, answerFrom answers onOk onFail = .ok (onOk rest)) ∨
    ∃ sig rest, answers = .fail sig :: rest ∧ answerFrom answers onOk onFail = .fail sig (onFail rest) := by
  match answers with
  | [] => exact .inl ⟨[], rfl⟩
  | .ok :: rest => exact .inl ⟨rest, rfl⟩
  | .fail sig :: rest => exact .inr ⟨sig, rest, rfl, rfl⟩

/-- An oracle answers every call but `awaitCompletion` from its list. -/
theorem call_oracle {c : AdpCall} (hc : c ≠ .awaitCompletion) (answers : List AdpAnswer) (completions : List Completion) :
    Adapter.call (.oracle answers completions) c = answerFrom answers (.oracle · completions) (.oracle · completions) := by
  cases c <;> first | rfl | exact absurd rfl hc

/-- The reference adapter goes by its rule, whatever answers are listed. -/
theorem call_reference (r : RefAdapter) (answers : List AdpAnswer) (c : AdpCall) :
    Adapter.call (.reference r answers) c =
      match r.call c with
      | .ok r' => answerFrom answers (.reference r') (.reference r)
      | .hold => .hold (.reference r answers)
      | .refuse => .refuse := rfl

/-- Only `awaitCompletion` is held, and only with a frame in flight. -/
theorem refCall_hold {r : RefAdapter} {c : AdpCall} (h : r.call c = .hold) :
    c = .awaitCompletion ∧ r.torn = false ∧ r.inflight ≠ none := by
  cases c <;> simp only [RefAdapter.call] at h <;> split at h <;> try simp at h
  next ht => exact ⟨rfl, by simpa using ht, h⟩

/-- The one call that may never be answered is `awaitCompletion`, by an oracle that says so. -/
theorem call_unanswered {a b : Adapter} {c : AdpCall} (h : a.call c = .unanswered b) :
    c = .awaitCompletion ∧ ∃ answers rest, a = .oracle answers (.never :: rest) ∧ b = .oracle answers rest := by
  cases a with
  | oracle answers completions =>
    by_cases hc : c = .awaitCompletion
    · subst hc
      refine ⟨rfl, answers, ?_⟩
      change awaitOracle answers completions = _ at h
      match completions with
      | [] => simp [awaitOracle] at h
      | .answered .ok :: _ => simp [awaitOracle] at h
      | .answered (.fail _) :: _ => simp [awaitOracle] at h
      | .never :: rest => exact ⟨rest, rfl, by simpa [awaitOracle] using h.symm⟩
    · rw [call_oracle hc] at h
      rcases answerFrom_cases answers (.oracle · completions) (.oracle · completions) with ⟨_, h'⟩ | ⟨_, _, -, h'⟩ <;>
        rw [h'] at h <;> simp at h
  | reference r answers =>
    rw [call_reference] at h
    split at h
    · next r' _ =>
      rcases answerFrom_cases answers (.reference r') (.reference r) with ⟨_, h'⟩ | ⟨_, _, -, h'⟩ <;>
        rw [h'] at h <;> simp at h
    · simp at h
    · simp at h

/-- The one call that is held is `awaitCompletion`, by the reference adapter with a frame in flight, which stays as it is. -/
theorem call_hold {a b : Adapter} {c : AdpCall} (h : a.call c = .hold b) :
    c = .awaitCompletion ∧ b = a ∧ ∃ r answers, a = .reference r answers ∧ r.torn = false ∧ r.inflight ≠ none := by
  cases a with
  | oracle answers completions =>
    by_cases hc : c = .awaitCompletion
    · subst hc
      change awaitOracle answers completions = _ at h
      unfold awaitOracle at h
      split at h <;> simp at h
    · rw [call_oracle hc] at h
      rcases answerFrom_cases answers (.oracle · completions) (.oracle · completions) with ⟨_, h'⟩ | ⟨_, _, -, h'⟩ <;>
        rw [h'] at h <;> simp at h
  | reference r answers =>
    rw [call_reference] at h
    cases hr : r.call c with
    | ok r' =>
      rw [hr] at h
      rcases answerFrom_cases answers (.reference r') (.reference r) with ⟨_, h'⟩ | ⟨_, _, -, h'⟩ <;>
        simp only [h'] at h <;> simp at h
    | hold =>
      rw [hr] at h
      obtain ⟨hc, ht, hi⟩ := refCall_hold hr
      exact ⟨hc, by simpa using h.symm, r, answers, rfl, ht, hi⟩
    | refuse => rw [hr] at h; simp at h

/-- Only the reference adapter refuses a call, by its rule. -/
theorem call_refuse {a : Adapter} {c : AdpCall} (h : a.call c = .refuse) :
    ∃ r answers, a = .reference r answers ∧ r.call c = .refuse := by
  cases a with
  | oracle answers completions =>
    by_cases hc : c = .awaitCompletion
    · subst hc
      change awaitOracle answers completions = _ at h
      unfold awaitOracle at h
      split at h <;> simp at h
    · rw [call_oracle hc] at h
      rcases answerFrom_cases answers (.oracle · completions) (.oracle · completions) with ⟨_, h'⟩ | ⟨_, _, -, h'⟩ <;>
        rw [h'] at h <;> simp at h
  | reference r answers =>
    rw [call_reference] at h
    cases hr : r.call c with
    | ok r' =>
      rw [hr] at h
      rcases answerFrom_cases answers (.reference r') (.reference r) with ⟨_, h'⟩ | ⟨_, _, -, h'⟩ <;>
        simp only [h'] at h <;> simp at h
    | hold => rw [hr] at h; simp at h
    | refuse => exact ⟨r, answers, rfl, hr⟩

/-- An `ok` keeps the kind of adapter. -/
theorem call_ok_kind {a b : Adapter} {c : AdpCall} (h : a.call c = .ok b) : b.isReference = a.isReference := by
  cases a with
  | oracle answers completions =>
    by_cases hc : c = .awaitCompletion
    · subst hc
      change awaitOracle answers completions = _ at h
      unfold awaitOracle at h
      split at h <;> simp at h <;> subst h <;> rfl
    · rw [call_oracle hc] at h
      rcases answerFrom_cases answers (.oracle · completions) (.oracle · completions) with ⟨_, h'⟩ | ⟨_, _, -, h'⟩ <;>
        rw [h'] at h <;> simp at h
      subst h; rfl
  | reference r answers =>
    rw [call_reference] at h
    cases hr : r.call c with
    | ok r' =>
      rw [hr] at h
      rcases answerFrom_cases answers (.reference r') (.reference r) with ⟨_, h'⟩ | ⟨_, _, -, h'⟩ <;>
        simp only [h'] at h <;> simp at h
      subst h; rfl
    | hold => rw [hr] at h; simp at h
    | refuse => rw [hr] at h; simp at h

@[simp] theorem complete_isReference (a : Adapter) : a.complete.isReference = a.isReference := by
  cases a <;> rfl

@[simp] theorem complete_oracle (answers : List AdpAnswer) (completions : List Completion) :
    (Adapter.oracle answers completions).complete = .oracle answers completions := rfl

end Sys2Proof.Machine
end

