-- ==== Sys2Proof/Laws/Decode.lean ====
section
/-! SUPPORT. Bit facts about headers and rows, so that no proof about the decoder takes a word apart again. -/

namespace Sys2Proof

/-- A header is its three fields (30_encoding R45). -/
theorem word_fields (h : Word) : h = h.extractLsb' 24 8 ++ h.extractLsb' 8 16 ++ h.extractLsb' 0 8 := by
  apply BitVec.eq_of_getLsbD_eq
  intro i hi
  simp only [BitVec.getLsbD_append, BitVec.getLsbD_extractLsb']
  interval_cases i <;> simp

/-- A mask works field by field. -/
theorem and_fields (h m : Word) :
    h &&& m = (h.extractLsb' 24 8 &&& m.extractLsb' 24 8) ++ (h.extractLsb' 8 16 &&& m.extractLsb' 8 16) ++
      (h.extractLsb' 0 8 &&& m.extractLsb' 0 8) := by
  apply BitVec.eq_of_getLsbD_eq
  intro i hi
  simp only [BitVec.getLsbD_append, BitVec.getLsbD_extractLsb', BitVec.getLsbD_and]
  interval_cases i <;> simp

theorem op_of_fields (a : BitVec 8) (b : BitVec 16) (c : BitVec 8) : (a ++ b ++ c : Word).extractLsb' 24 8 = a := by
  apply BitVec.eq_of_getLsbD_eq
  intro i hi
  simp only [BitVec.getLsbD_append, BitVec.getLsbD_extractLsb']
  interval_cases i <;> simp

theorem rsv_of_fields (a : BitVec 8) (b : BitVec 16) (c : BitVec 8) : (a ++ b ++ c : Word).extractLsb' 8 16 = b := by
  apply BitVec.eq_of_getLsbD_eq
  intro i hi
  simp only [BitVec.getLsbD_append, BitVec.getLsbD_extractLsb']
  interval_cases i <;> simp

theorem sub_of_fields (a : BitVec 8) (b : BitVec 16) (c : BitVec 8) : (a ++ b ++ c : Word).extractLsb' 0 8 = c := by
  apply BitVec.eq_of_getLsbD_eq
  intro i hi
  simp only [BitVec.getLsbD_append, BitVec.getLsbD_extractLsb']
  interval_cases i <;> simp

/-- A row's test, field by field. -/
theorem masked_iff (h p m : Word) :
    h &&& m = p ↔
      h.extractLsb' 24 8 &&& m.extractLsb' 24 8 = p.extractLsb' 24 8 ∧
      h.extractLsb' 8 16 &&& m.extractLsb' 8 16 = p.extractLsb' 8 16 ∧
      h.extractLsb' 0 8 &&& m.extractLsb' 0 8 = p.extractLsb' 0 8 := by
  constructor
  · rintro rfl
    rw [and_fields h m, op_of_fields, rsv_of_fields, sub_of_fields]
    exact ⟨rfl, rfl, rfl⟩
  · rintro ⟨h1, h2, h3⟩
    rw [and_fields h m, h1, h2, h3, ← word_fields p]

/-- The parts of a header's `sub` field, each read from `sub` itself. -/
theorem sub_parts (h : Word) :
    h.extractLsb' 3 5 = (h.extractLsb' 0 8).extractLsb' 3 5 ∧ h.extractLsb' 2 6 = (h.extractLsb' 0 8).extractLsb' 2 6 ∧
    h.extractLsb' 0 2 = (h.extractLsb' 0 8).extractLsb' 0 2 ∧ h.extractLsb' 1 7 = (h.extractLsb' 0 8).extractLsb' 1 7 := by
  refine ⟨?_, ?_, ?_, ?_⟩ <;>
  · apply BitVec.eq_of_getLsbD_eq
    intro i hi
    simp only [BitVec.getLsbD_extractLsb']
    interval_cases i <;> simp

/-- A header is what a constructor's mask keeps of it, and its `ord` field. -/
theorem header_of_ord (h : Word) : h = (h &&& 0xFFFFFFF8#32) ||| (ordField h).setWidth 32 := by
  apply BitVec.eq_of_getLsbD_eq
  intro i hi
  simp only [ordField, BitVec.getLsbD_or, BitVec.getLsbD_and, BitVec.getLsbD_setWidth, BitVec.getLsbD_extractLsb']
  interval_cases i <;> simp

/-- A header is what SETOPT's mask keeps of it, and its flag. -/
theorem header_of_flag (h : Word) : h = (h &&& 0xFFFFFFFE#32) ||| (BitVec.ofBool (flagField h)).setWidth 32 := by
  apply BitVec.eq_of_getLsbD_eq
  intro i hi
  simp only [flagField, BitVec.getLsbD_or, BitVec.getLsbD_and, BitVec.getLsbD_setWidth, BitVec.getLsbD_ofBool]
  interval_cases i <;> simp

theorem and_full (h : Word) : h &&& 0xFFFFFFFF#32 = h := by
  rw [show (0xFFFFFFFF#32) = BitVec.allOnes 32 from by decide]
  exact BitVec.and_allOnes

/-- A selected row is a row of the table whose test the header passes. -/
theorem selectRow_some {h : Word} {r : Row} (hs : selectRow h = some r) : r ∈ opcodeTable ∧ h &&& r.mask = r.pattern := by
  refine ⟨List.mem_of_find?_eq_some hs, ?_⟩
  simpa [Row.selects] using List.find?_some hs

@[simp] theorem ordField_create (ord : BitVec 3) : ordField (header 0x01#8 (0#5 ++ ord)) = ord := by
  revert ord; decide

@[simp] theorem ordField_init (ord : BitVec 3) : ordField (header 0x10#8 (0#5 ++ ord)) = ord := by
  revert ord; decide

@[simp] theorem flagField_setopt (flag : Bool) : flagField (header 0x04#8 (0#7 ++ BitVec.ofBool flag)) = flag := by
  revert flag; decide

theorem highByteClear_iff {cw : Word} : highByteClear cw = true ↔ cw.extractLsb' 24 8 = 0#8 := by
  simp [highByteClear]

theorem checkColour_clear {cw : Word} (h : cw.extractLsb' 24 8 = 0#8) (i : Instr) (rest : List Word) :
    checkColour cw i rest = .ok i rest :=
  if_pos h

theorem checkColour_reserved {cw : Word} (h : cw.extractLsb' 24 8 ≠ 0#8) (i : Instr) (rest : List Word) :
    checkColour cw i rest = .badColour cw rest :=
  if_neg h

end Sys2Proof
end

