-- ==== Sys2Proof/Laws/State.lean ====
section
/-! SUPPORT. What each shared update does to each field of the state: one lemma per field and update, true by rfl. -/

namespace Sys2Proof.Machine

/-! ### State.emit -/

@[simp] theorem emit_life (e : Event) (s : State) : (s.emit e).life = s.life := rfl
@[simp] theorem emit_num (e : Event) (s : State) : (s.emit e).num = s.num := rfl
@[simp] theorem emit_ord (e : Event) (s : State) : (s.emit e).ord = s.ord := rfl
@[simp] theorem emit_opt (e : Event) (s : State) : (s.emit e).opt = s.opt := rfl
@[simp] theorem emit_slots (e : Event) (s : State) : (s.emit e).slots = s.slots := rfl
@[simp] theorem emit_tZero (e : Event) (s : State) : (s.emit e).tZero = s.tZero := rfl
@[simp] theorem emit_tOne (e : Event) (s : State) : (s.emit e).tOne = s.tOne := rfl
@[simp] theorem emit_tFreq (e : Event) (s : State) : (s.emit e).tFreq = s.tFreq := rfl
@[simp] theorem emit_tReset (e : Event) (s : State) : (s.emit e).tReset = s.tReset := rfl
@[simp] theorem emit_fault (e : Event) (s : State) : (s.emit e).fault = s.fault := rfl
@[simp] theorem emit_scan (e : Event) (s : State) : (s.emit e).scan = s.scan := rfl
@[simp] theorem emit_frame (e : Event) (s : State) : (s.emit e).frame = s.frame := rfl
@[simp] theorem emit_port (e : Event) (s : State) : (s.emit e).port = s.port := rfl
@[simp] theorem emit_trace (e : Event) (s : State) : (s.emit e).trace = s.trace ++ [e] := rfl
@[simp] theorem emit_inputs (e : Event) (s : State) : (s.emit e).inputs = s.inputs := rfl
@[simp] theorem emit_adapter (e : Event) (s : State) : (s.emit e).adapter = s.adapter := rfl
@[simp] theorem emit_cfg (e : Event) (s : State) : (s.emit e).cfg = s.cfg := rfl

/-! ### respond -/

@[simp] theorem respond_life (r : Response) (s : State) : (respond r s).life = s.life := rfl
@[simp] theorem respond_num (r : Response) (s : State) : (respond r s).num = s.num := rfl
@[simp] theorem respond_ord (r : Response) (s : State) : (respond r s).ord = s.ord := rfl
@[simp] theorem respond_opt (r : Response) (s : State) : (respond r s).opt = s.opt := rfl
@[simp] theorem respond_slots (r : Response) (s : State) : (respond r s).slots = s.slots := rfl
@[simp] theorem respond_tZero (r : Response) (s : State) : (respond r s).tZero = s.tZero := rfl
@[simp] theorem respond_tOne (r : Response) (s : State) : (respond r s).tOne = s.tOne := rfl
@[simp] theorem respond_tFreq (r : Response) (s : State) : (respond r s).tFreq = s.tFreq := rfl
@[simp] theorem respond_tReset (r : Response) (s : State) : (respond r s).tReset = s.tReset := rfl
@[simp] theorem respond_fault (r : Response) (s : State) : (respond r s).fault = s.fault := rfl
@[simp] theorem respond_scan (r : Response) (s : State) : (respond r s).scan = s.scan := rfl
@[simp] theorem respond_frame (r : Response) (s : State) : (respond r s).frame = s.frame := rfl
@[simp] theorem respond_port (r : Response) (s : State) : (respond r s).port = s.port := rfl
@[simp] theorem respond_trace (r : Response) (s : State) : (respond r s).trace = s.trace ++ [.response r] := rfl
@[simp] theorem respond_inputs (r : Response) (s : State) : (respond r s).inputs = s.inputs := rfl
@[simp] theorem respond_adapter (r : Response) (s : State) : (respond r s).adapter = s.adapter := rfl
@[simp] theorem respond_cfg (r : Response) (s : State) : (respond r s).cfg = s.cfg := rfl

/-! ### raise -/

@[simp] theorem raise_life (e : Err) (s : State) : (raise e s).life = s.life := rfl
@[simp] theorem raise_num (e : Err) (s : State) : (raise e s).num = s.num := rfl
@[simp] theorem raise_ord (e : Err) (s : State) : (raise e s).ord = s.ord := rfl
@[simp] theorem raise_opt (e : Err) (s : State) : (raise e s).opt = s.opt := rfl
@[simp] theorem raise_slots (e : Err) (s : State) : (raise e s).slots = s.slots := rfl
@[simp] theorem raise_tZero (e : Err) (s : State) : (raise e s).tZero = s.tZero := rfl
@[simp] theorem raise_tOne (e : Err) (s : State) : (raise e s).tOne = s.tOne := rfl
@[simp] theorem raise_tFreq (e : Err) (s : State) : (raise e s).tFreq = s.tFreq := rfl
@[simp] theorem raise_tReset (e : Err) (s : State) : (raise e s).tReset = s.tReset := rfl
@[simp] theorem raise_fault (e : Err) (s : State) : (raise e s).fault = stickyFault s.fault e.cause := rfl
@[simp] theorem raise_scan (e : Err) (s : State) : (raise e s).scan = s.scan := rfl
@[simp] theorem raise_frame (e : Err) (s : State) : (raise e s).frame = s.frame := rfl
@[simp] theorem raise_port (e : Err) (s : State) : (raise e s).port = s.port := rfl
@[simp] theorem raise_trace (e : Err) (s : State) : (raise e s).trace = s.trace ++ [.response (.err e)] := rfl
@[simp] theorem raise_inputs (e : Err) (s : State) : (raise e s).inputs = s.inputs := rfl
@[simp] theorem raise_adapter (e : Err) (s : State) : (raise e s).adapter = s.adapter := rfl
@[simp] theorem raise_cfg (e : Err) (s : State) : (raise e s).cfg = s.cfg := rfl

/-! ### State.createBuffer -/

@[simp] theorem createBuffer_life (o : ChannelOrder) (n : Nat) (s : State) : (s.createBuffer o n).life = s.life := rfl
@[simp] theorem createBuffer_num (o : ChannelOrder) (n : Nat) (s : State) : (s.createBuffer o n).num = n := rfl
@[simp] theorem createBuffer_ord (o : ChannelOrder) (n : Nat) (s : State) : (s.createBuffer o n).ord = o := rfl
@[simp] theorem createBuffer_opt (o : ChannelOrder) (n : Nat) (s : State) : (s.createBuffer o n).opt = false := rfl
@[simp] theorem createBuffer_slots (o : ChannelOrder) (n : Nat) (s : State) : (s.createBuffer o n).slots = [] := rfl
@[simp] theorem createBuffer_tZero (o : ChannelOrder) (n : Nat) (s : State) : (s.createBuffer o n).tZero = s.tZero := rfl
@[simp] theorem createBuffer_tOne (o : ChannelOrder) (n : Nat) (s : State) : (s.createBuffer o n).tOne = s.tOne := rfl
@[simp] theorem createBuffer_tFreq (o : ChannelOrder) (n : Nat) (s : State) : (s.createBuffer o n).tFreq = s.tFreq := rfl
@[simp] theorem createBuffer_tReset (o : ChannelOrder) (n : Nat) (s : State) : (s.createBuffer o n).tReset = s.tReset := rfl
@[simp] theorem createBuffer_fault (o : ChannelOrder) (n : Nat) (s : State) : (s.createBuffer o n).fault = s.fault := rfl
@[simp] theorem createBuffer_scan (o : ChannelOrder) (n : Nat) (s : State) : (s.createBuffer o n).scan = s.scan := rfl
@[simp] theorem createBuffer_frame (o : ChannelOrder) (n : Nat) (s : State) : (s.createBuffer o n).frame = s.frame := rfl
@[simp] theorem createBuffer_port (o : ChannelOrder) (n : Nat) (s : State) : (s.createBuffer o n).port = s.port := rfl
@[simp] theorem createBuffer_trace (o : ChannelOrder) (n : Nat) (s : State) : (s.createBuffer o n).trace = s.trace := rfl
@[simp] theorem createBuffer_inputs (o : ChannelOrder) (n : Nat) (s : State) : (s.createBuffer o n).inputs = s.inputs := rfl
@[simp] theorem createBuffer_adapter (o : ChannelOrder) (n : Nat) (s : State) : (s.createBuffer o n).adapter = s.adapter := rfl
@[simp] theorem createBuffer_cfg (o : ChannelOrder) (n : Nat) (s : State) : (s.createBuffer o n).cfg = s.cfg := rfl

/-! ### State.setTiming -/

@[simp] theorem setTiming_life (z o f r : Word) (s : State) : (s.setTiming z o f r).life = s.life := rfl
@[simp] theorem setTiming_num (z o f r : Word) (s : State) : (s.setTiming z o f r).num = s.num := rfl
@[simp] theorem setTiming_ord (z o f r : Word) (s : State) : (s.setTiming z o f r).ord = s.ord := rfl
@[simp] theorem setTiming_opt (z o f r : Word) (s : State) : (s.setTiming z o f r).opt = s.opt := rfl
@[simp] theorem setTiming_slots (z o f r : Word) (s : State) : (s.setTiming z o f r).slots = s.slots := rfl
@[simp] theorem setTiming_tZero (z o f r : Word) (s : State) : (s.setTiming z o f r).tZero = z := rfl
@[simp] theorem setTiming_tOne (z o f r : Word) (s : State) : (s.setTiming z o f r).tOne = o := rfl
@[simp] theorem setTiming_tFreq (z o f r : Word) (s : State) : (s.setTiming z o f r).tFreq = f := rfl
@[simp] theorem setTiming_tReset (z o f r : Word) (s : State) : (s.setTiming z o f r).tReset = r := rfl
@[simp] theorem setTiming_fault (z o f r : Word) (s : State) : (s.setTiming z o f r).fault = s.fault := rfl
@[simp] theorem setTiming_scan (z o f r : Word) (s : State) : (s.setTiming z o f r).scan = s.scan := rfl
@[simp] theorem setTiming_frame (z o f r : Word) (s : State) : (s.setTiming z o f r).frame = s.frame := rfl
@[simp] theorem setTiming_port (z o f r : Word) (s : State) : (s.setTiming z o f r).port = s.port := rfl
@[simp] theorem setTiming_trace (z o f r : Word) (s : State) : (s.setTiming z o f r).trace = s.trace := rfl
@[simp] theorem setTiming_inputs (z o f r : Word) (s : State) : (s.setTiming z o f r).inputs = s.inputs := rfl
@[simp] theorem setTiming_adapter (z o f r : Word) (s : State) : (s.setTiming z o f r).adapter = s.adapter := rfl
@[simp] theorem setTiming_cfg (z o f r : Word) (s : State) : (s.setTiming z o f r).cfg = s.cfg := rfl

/-! ### State.close -/

@[simp] theorem close_life (s : State) : s.close.life = s.life := rfl
@[simp] theorem close_num (s : State) : s.close.num = s.num := rfl
@[simp] theorem close_ord (s : State) : s.close.ord = s.ord := rfl
@[simp] theorem close_opt (s : State) : s.close.opt = s.opt := rfl
@[simp] theorem close_slots (s : State) : s.close.slots = s.slots := rfl
@[simp] theorem close_tZero (s : State) : s.close.tZero = s.tZero := rfl
@[simp] theorem close_tOne (s : State) : s.close.tOne = s.tOne := rfl
@[simp] theorem close_tFreq (s : State) : s.close.tFreq = s.tFreq := rfl
@[simp] theorem close_tReset (s : State) : s.close.tReset = s.tReset := rfl
@[simp] theorem close_fault (s : State) : s.close.fault = s.fault := rfl
@[simp] theorem close_scan (s : State) : s.close.scan = 0 := rfl
@[simp] theorem close_frame (s : State) : s.close.frame = [] := rfl
@[simp] theorem close_port (s : State) : s.close.port = .ready := rfl
@[simp] theorem close_trace (s : State) : s.close.trace = s.trace := rfl
@[simp] theorem close_inputs (s : State) : s.close.inputs = s.inputs := rfl
@[simp] theorem close_adapter (s : State) : s.close.adapter = s.adapter := rfl
@[simp] theorem close_cfg (s : State) : s.close.cfg = s.cfg := rfl

/-! ### resetBlock -/

@[simp] theorem resetBlock_life (s : State) : (resetBlock s).life = .empty := rfl
@[simp] theorem resetBlock_num (s : State) : (resetBlock s).num = 0 := rfl
@[simp] theorem resetBlock_ord (s : State) : (resetBlock s).ord = .rgb := rfl
@[simp] theorem resetBlock_opt (s : State) : (resetBlock s).opt = false := rfl
@[simp] theorem resetBlock_slots (s : State) : (resetBlock s).slots = [] := rfl
@[simp] theorem resetBlock_tZero (s : State) : (resetBlock s).tZero = 0#32 := rfl
@[simp] theorem resetBlock_tOne (s : State) : (resetBlock s).tOne = 0#32 := rfl
@[simp] theorem resetBlock_tFreq (s : State) : (resetBlock s).tFreq = 0#32 := rfl
@[simp] theorem resetBlock_tReset (s : State) : (resetBlock s).tReset = 0#32 := rfl
@[simp] theorem resetBlock_fault (s : State) : (resetBlock s).fault = none := rfl
@[simp] theorem resetBlock_scan (s : State) : (resetBlock s).scan = 0 := rfl
@[simp] theorem resetBlock_frame (s : State) : (resetBlock s).frame = [] := rfl
@[simp] theorem resetBlock_port (s : State) : (resetBlock s).port = .ready := rfl
@[simp] theorem resetBlock_trace (s : State) : (resetBlock s).trace = s.trace := rfl
@[simp] theorem resetBlock_inputs (s : State) : (resetBlock s).inputs = s.inputs := rfl
@[simp] theorem resetBlock_adapter (s : State) : (resetBlock s).adapter = s.adapter := rfl
@[simp] theorem resetBlock_cfg (s : State) : (resetBlock s).cfg = s.cfg := rfl

/-! ### State.withWords -/

@[simp] theorem withWords_life (s : State) (ws : List Word) : (s.withWords ws).life = s.life := rfl
@[simp] theorem withWords_num (s : State) (ws : List Word) : (s.withWords ws).num = s.num := rfl
@[simp] theorem withWords_ord (s : State) (ws : List Word) : (s.withWords ws).ord = s.ord := rfl
@[simp] theorem withWords_opt (s : State) (ws : List Word) : (s.withWords ws).opt = s.opt := rfl
@[simp] theorem withWords_slots (s : State) (ws : List Word) : (s.withWords ws).slots = s.slots := rfl
@[simp] theorem withWords_tZero (s : State) (ws : List Word) : (s.withWords ws).tZero = s.tZero := rfl
@[simp] theorem withWords_tOne (s : State) (ws : List Word) : (s.withWords ws).tOne = s.tOne := rfl
@[simp] theorem withWords_tFreq (s : State) (ws : List Word) : (s.withWords ws).tFreq = s.tFreq := rfl
@[simp] theorem withWords_tReset (s : State) (ws : List Word) : (s.withWords ws).tReset = s.tReset := rfl
@[simp] theorem withWords_fault (s : State) (ws : List Word) : (s.withWords ws).fault = s.fault := rfl
@[simp] theorem withWords_scan (s : State) (ws : List Word) : (s.withWords ws).scan = s.scan := rfl
@[simp] theorem withWords_frame (s : State) (ws : List Word) : (s.withWords ws).frame = s.frame := rfl
@[simp] theorem withWords_port (s : State) (ws : List Word) : (s.withWords ws).port = s.port := rfl
@[simp] theorem withWords_trace (s : State) (ws : List Word) : (s.withWords ws).trace = s.trace := rfl
@[simp] theorem withWords_inputs (s : State) (ws : List Word) : (s.withWords ws).inputs = ws.map Input.word ++ afterWords s.inputs := rfl
@[simp] theorem withWords_adapter (s : State) (ws : List Word) : (s.withWords ws).adapter = s.adapter := rfl
@[simp] theorem withWords_cfg (s : State) (ws : List Word) : (s.withWords ws).cfg = s.cfg := rfl

/-- The final state of `raise`, written out (60_exceptions R140). -/
theorem raise_eq (e : Err) (s : State) :
    raise e s = { s with fault := stickyFault s.fault e.cause, trace := s.trace ++ [.response (.err e)] } := rfl

/-- The final state of `respond`, written out. -/
theorem respond_eq (r : Response) (s : State) : respond r s = { s with trace := s.trace ++ [.response r] } := rfl

end Sys2Proof.Machine
end

