-- ==== Sys2Proof/Laws/Ops.lean ====
section
/-! SUPPORT. One lemma per shared operation, saying once everything it can do. -/

namespace Sys2Proof.Machine

theorem require_pos {c : Prop} [Decidable c] (h : c) (e : Err) (s : State) (k : Out) : require c e s k = k :=
  if_pos h

theorem require_neg {c : Prop} [Decidable c] (h : ¬ c) (e : Err) (s : State) (k : Out) :
    require c e s k = .next (raise e s) :=
  if_neg h

/-- `require` either goes on or raises. -/
theorem require_cases (c : Prop) [Decidable c] (e : Err) (s : State) (k : Out) :
    (c ∧ require c e s k = k) ∨ (¬ c ∧ require c e s k = .next (raise e s)) := by
  by_cases h : c
  · exact .inl ⟨h, require_pos h e s k⟩
  · exact .inr ⟨h, require_neg h e s k⟩

/-- Everything `takeAnswer` can do; only an `awaitCompletion` leaves the command without its answer. -/
theorem takeAnswer_cases (c : AdpCall) (s : State) (k : State → Out) :
    (∃ a, s.adapter.call c = .ok a ∧ takeAnswer c s k = k { s with adapter := a }) ∨
    (∃ sig a, s.adapter.call c = .fail sig a ∧
      takeAnswer c s k = .next (raise (.adapterFailure sig) { s with adapter := a })) ∨
    (∃ a, c = .awaitCompletion ∧ s.adapter.call c = .unanswered a ∧
      takeAnswer c s k = .next { s with adapter := a, port := .unanswered }) ∨
    (c = .awaitCompletion ∧ s.adapter.isReference = true ∧ s.adapter.call c = .hold s.adapter ∧
      takeAnswer c s k = .next { s with port := .holding }) ∨
    (s.adapter.isReference = true ∧ s.adapter.call c = .refuse ∧ takeAnswer c s k = .refused (.adapterOrder c)) := by
  unfold takeAnswer
  cases h : s.adapter.call c with
  | ok a => exact .inl ⟨a, rfl, rfl⟩
  | fail sig a => exact .inr (.inl ⟨sig, a, rfl, rfl⟩)
  | unanswered a => exact .inr (.inr (.inl ⟨a, (call_unanswered h).1, rfl, rfl⟩))
  | hold a =>
    obtain ⟨hc, rfl, r, answers, hr, -⟩ := call_hold h
    exact .inr (.inr (.inr (.inl ⟨hc, by rw [hr]; rfl, rfl, rfl⟩)))
  | refuse =>
    obtain ⟨r, answers, hr, -⟩ := call_refuse h
    exact .inr (.inr (.inr (.inr ⟨by rw [hr]; rfl, rfl, rfl⟩)))

theorem takeAnswer_ok {c : AdpCall} {s : State} {a : Adapter} (h : s.adapter.call c = .ok a) (k : State → Out) :
    takeAnswer c s k = k { s with adapter := a } := by
  simp [takeAnswer, h]

theorem takeAnswer_fail {c : AdpCall} {s : State} {a : Adapter} {sig : AdpSignal}
    (h : s.adapter.call c = .fail sig a) (k : State → Out) :
    takeAnswer c s k = .next (raise (.adapterFailure sig) { s with adapter := a }) := by
  simp [takeAnswer, h]

theorem takeAnswer_unanswered {c : AdpCall} {s : State} {a : Adapter} (h : s.adapter.call c = .unanswered a)
    (k : State → Out) : takeAnswer c s k = .next { s with adapter := a, port := .unanswered } := by
  simp [takeAnswer, h]

theorem takeAnswer_hold {c : AdpCall} {s : State} {a : Adapter} (h : s.adapter.call c = .hold a) (k : State → Out) :
    takeAnswer c s k = .next { s with adapter := a, port := .holding } := by
  simp [takeAnswer, h]

theorem takeAnswer_refuse {c : AdpCall} {s : State} (h : s.adapter.call c = .refuse) (k : State → Out) :
    takeAnswer c s k = .refused (.adapterOrder c) := by
  simp [takeAnswer, h]

/-- The checks of a constructor: a raised error, or the constructor's own part with legal arguments. -/
theorem withConstructor_cases (ord : BitVec 3) (n : Int) (s : State) (k : ChannelOrder → Nat → Out) :
    (∃ e, e.cause ≠ .adapterFailure ∧ withConstructor ord n s k = .next (raise e s)) ∨
    (∃ o, s.life = .empty ∧ ChannelOrder.ofCode ord = some o ∧ 0 ≤ n ∧ n ≤ s.cfg.nMax.val ∧
      withConstructor ord n s k = k o n.toNat) := by
  unfold withConstructor
  rcases require_cases (s.life = .empty) (.illegalState s.life) s _ with ⟨hl, h⟩ | ⟨-, h⟩
  · rw [h]
    cases ho : ChannelOrder.ofCode ord with
    | none => exact .inl ⟨.configError ord.toNat, by simp [Err.cause], rfl⟩
    | some o =>
      rcases require_cases (0 ≤ n ∧ n ≤ s.cfg.nMax.val) (.configError n) s (k o n.toNat) with ⟨hn, h⟩ | ⟨-, h⟩
      · exact .inr ⟨o, hl, rfl, hn.1, hn.2, h⟩
      · exact .inl ⟨_, by simp [Err.cause], h⟩
  · exact .inl ⟨_, by simp [Err.cause], h⟩

theorem withConstructor_ok {ord : BitVec 3} {n : Int} {s : State} {o : ChannelOrder} (hl : s.life = .empty)
    (ho : ChannelOrder.ofCode ord = some o) (h0 : 0 ≤ n) (hn : n ≤ s.cfg.nMax.val) (k : ChannelOrder → Nat → Out) :
    withConstructor ord n s k = k o n.toNat := by
  unfold withConstructor
  rw [require_pos hl, ho]
  exact require_pos ⟨h0, hn⟩ _ _ _

/-- A set of one slot: a raised error, or the slot written. -/
theorem setPixel_cases (index : Int) (c : PixelColor) (s : State) :
    (∃ e, e.cause ≠ .adapterFailure ∧ setPixel index c s = .next (raise e s)) ∨
    (s.life ≠ .empty ∧ 0 ≤ index ∧ index < s.num ∧
      setPixel index c s = .next (respond .ok { s with slots := s.slots.write index.toNat c })) := by
  unfold setPixel requireBuffer
  rcases require_cases (s.life ≠ .empty) (.illegalState s.life) s _ with ⟨hl, h⟩ | ⟨-, h⟩
  · rw [h]
    rcases require_cases (0 ≤ index ∧ index < s.num) (.boundsViolation index) s
      (.next (respond .ok { s with slots := s.slots.write index.toNat c })) with ⟨hi, h⟩ | ⟨-, h⟩
    · exact .inr ⟨hl, hi.1, hi.2, h⟩
    · exact .inl ⟨_, by simp [Err.cause], h⟩
  · exact .inl ⟨_, by simp [Err.cause], h⟩

theorem setPixel_ok {index : Int} {s : State} (hl : s.life ≠ .empty) (h0 : 0 ≤ index) (hn : index < s.num)
    (c : PixelColor) :
    setPixel index c s = .next (respond .ok { s with slots := s.slots.write index.toNat c }) := by
  unfold setPixel requireBuffer
  rw [require_pos hl]
  exact require_pos ⟨h0, hn⟩ _ _ _

theorem stickyFault_some (c d : Cause) : stickyFault (some c) d = some c := rfl

theorem stickyFault_none (d : Cause) : stickyFault none d = some d := rfl

/-- A recorded fault is never lost. -/
theorem stickyFault_isSome (f : Option Cause) (d : Cause) : (stickyFault f d).isSome := by
  cases f <;> rfl

/-- The sticky rule as a case distinction (60_exceptions R140). -/
theorem stickyFault_eq (fault : Option Cause) (c : Cause) :
    stickyFault fault c = if fault = none then some c else fault := by
  cases fault <;> rfl

/-- A raise is an answer `ERR` that changes nothing but `FAULT` (60_exceptions R135, R144). -/
theorem answersErr_raise (e : Err) (s : State) : AnswersErr (.next (raise e s)) s e := by
  rw [AnswersErr, raise_eq, stickyFault_eq]

/-- An emitted suffix determines its last event. -/
theorem trace_last {tr es fs : List Event} {x y : Event} (h : tr ++ fs ++ [x] = tr ++ es ++ [y]) : fs = es ∧ x = y := by
  simp only [List.append_assoc, List.append_cancel_left_eq] at h
  obtain ⟨h1, h2⟩ := List.append_inj' h rfl
  exact ⟨h1, by simpa using h2⟩

/-- Calls alone are no response. -/
theorem calls_ne_response {cs : List AdpCall} {es : List Event} {r : Response} :
    cs.map Event.call ≠ es ++ [.response r] := by
  intro h
  have := congrArg List.getLast? h
  simp at this

end Sys2Proof.Machine
end

