-- ==== Sys2Proof/Laws/Exec.lean ====
section
/-! SUPPORT. What one command can do, said once: every next state of `exec` is one of the effects below. -/

namespace Sys2Proof.Machine

/-- How a sequence of adapter calls leaves the state `b` it started from: only the trace, the adapter, `FAULT` and the
wait state change. -/
inductive CallEffect (b : State) : State → Prop
  /-- Every call answered `ok`. -/
  | done (cs : List AdpCall) (a : Adapter) :
      CallEffect b (respond .ok { b with trace := b.trace ++ cs.map Event.call, adapter := a })
  /-- The last call answered `fail(sig)`. -/
  | failed (cs : List AdpCall) (a : Adapter) (sig : AdpSignal) :
      CallEffect b (raise (.adapterFailure sig) { b with trace := b.trace ++ cs.map Event.call, adapter := a })
  /-- The call was an `awaitCompletion` that has not been answered: never, or not before its transmission completes. -/
  | waiting (a : Adapter) (p : PortState)
      (hp : p = .unanswered ∨ p = .holding ∧ a.isReference = true ∧ b.adapter = a) :
      CallEffect b { b with trace := b.trace ++ [.call .awaitCompletion], adapter := a, port := p }

/-- What one command can do to the state. -/
inductive Effect (s : State) : State → Prop
  | raised (e : Err) (h : e.cause ≠ .adapterFailure) : Effect s (raise e s)
  | created (o : ChannelOrder) (n : Nat) (hl : s.life = .empty) (hn : n ≤ s.cfg.nMax.val) :
      Effect s (respond .ok { s.createBuffer o n with life := .core })
  | pixel (i : Nat) (c : PixelColor) (hl : s.life ≠ .empty) (hi : i < s.num) :
      Effect s (respond .ok { s with slots := s.slots.write i c })
  | option (b : Bool) (hl : s.life ≠ .empty) : Effect s (respond .ok { s with opt := b })
  | encoded (hl : s.life ≠ .empty) :
      Effect s (respond .ok { s.emit (.frame s.encodedFrame) with scan := 0 })
  | inited (o : ChannelOrder) (n : Nat) (dz d1 f rd : Word) (t : State) (hl : s.life = .empty)
      (hn : n ≤ s.cfg.nMax.val) (h : CallEffect (s.committed o n dz d1 f rd) t) : Effect s t
  | started (t : State) (hl : s.life = .facade) (h : CallEffect { s with scan := 0 } t) : Effect s t
  | forwarded (t : State) (hl : s.life = .facade) (h : CallEffect s t) : Effect s t

/-- A forwarded call has a call's effect. -/
theorem forward_effect {c : AdpCall} {s t : State} (h : forward c s = .next t) : CallEffect s t := by
  change takeAnswer c (s.emit (.call c)) (fun s => .next (respond .ok s)) = _ at h
  rcases takeAnswer_cases c (s.emit (.call c)) fun s => .next (respond .ok s) with
    ⟨a, -, h'⟩ | ⟨sig, a, -, h'⟩ | ⟨a, rfl, -, h'⟩ | ⟨rfl, hr, -, h'⟩ | ⟨-, -, h'⟩ <;> rw [h'] at h
  · injection h with h; subst h; exact .done [c] a
  · injection h with h; subst h; exact .failed [c] a sig
  · injection h with h; subst h; exact .waiting a _ (.inl rfl)
  · injection h with h; subst h; exact .waiting s.adapter _ (.inr ⟨rfl, hr, rfl⟩)
  · cases h

/-- A forwarded call other than `awaitCompletion` is answered. -/
theorem forward_answered {c : AdpCall} (hc : c ≠ .awaitCompletion) {s t : State} (h : forward c s = .next t) :
    t.port = s.port := by
  change takeAnswer c (s.emit (.call c)) (fun s => .next (respond .ok s)) = _ at h
  rcases takeAnswer_cases c (s.emit (.call c)) fun s => .next (respond .ok s) with
    ⟨a, -, h'⟩ | ⟨sig, a, -, h'⟩ | ⟨a, hc', -, h'⟩ | ⟨hc', -, -, h'⟩ | ⟨-, -, h'⟩ <;> rw [h'] at h
  · injection h with h; subst h; rfl
  · injection h with h; subst h; rfl
  · exact absurd hc' hc
  · exact absurd hc' hc
  · cases h

/-- The two calls of INIT have a call sequence's effect, and both are answered. -/
theorem initCalls_effect {s t : State}
    (h : (callAdapter .initialise s fun s => callAdapter (.configurePattern s.pattern) s fun s => .next (respond .ok s)) =
      .next t) :
    CallEffect s t ∧ t.port = s.port := by
  change takeAnswer .initialise (s.emit (.call .initialise))
    (fun s => forward (.configurePattern s.pattern) s) = _ at h
  rcases takeAnswer_cases .initialise (s.emit (.call .initialise)) fun s => forward (.configurePattern s.pattern) s with
    ⟨a, -, h'⟩ | ⟨sig, a, -, h'⟩ | ⟨a, hc, -, h'⟩ | ⟨hc, -, -, h'⟩ | ⟨-, -, h'⟩ <;> rw [h'] at h
  · generalize hb : ({ s.emit (.call .initialise) with adapter := a } : State) = b at h
    change takeAnswer (.configurePattern b.pattern) (b.emit (.call (.configurePattern b.pattern)))
      (fun s => .next (respond .ok s)) = _ at h
    rcases takeAnswer_cases (.configurePattern b.pattern) (b.emit (.call (.configurePattern b.pattern)))
      fun s => .next (respond .ok s) with
      ⟨a', -, h'⟩ | ⟨sig, a', -, h'⟩ | ⟨a', hc, -, h'⟩ | ⟨hc, -, -, h'⟩ | ⟨-, -, h'⟩ <;> rw [h'] at h
    · injection h with h
      subst hb; subst h
      exact ⟨by simpa [State.emit, State.pattern] using CallEffect.done (b := s) [.initialise, .configurePattern s.pattern] a', rfl⟩
    · injection h with h
      subst hb; subst h
      exact ⟨by simpa [State.emit, State.pattern] using CallEffect.failed (b := s) [.initialise, .configurePattern s.pattern] a' sig, rfl⟩
    · cases hc
    · cases hc
    · cases h
  · injection h with h; subst h; exact ⟨.failed [.initialise] a sig, rfl⟩
  · cases hc
  · cases hc
  · cases h

/-- A set of one slot has an effect of the list. -/
theorem setPixel_effect {index : Int} {c : PixelColor} {s t : State} (h : setPixel index c s = .next t) :
    Effect s t := by
  rcases setPixel_cases index c s with ⟨e, he, h'⟩ | ⟨hl, h0, hn, h'⟩ <;> rw [h'] at h <;> injection h with h <;> subst h
  · exact .raised e he
  · exact .pixel _ c hl (by omega)

/-- A set of one slot behind a colour-word check has an effect of the list. -/
theorem colourSet_effect {cw : Word} {index : Int} {c : PixelColor} {s t : State}
    (h : requireColour cw s (setPixel index c s) = .next t) : Effect s t := by
  unfold requireColour at h
  rcases require_cases (highByte cw = 0#8) (.illegalCommand cw) s (setPixel index c s) with ⟨-, h'⟩ | ⟨-, h'⟩ <;>
    rw [h'] at h
  · exact setPixel_effect h
  · injection h with h; subst h; exact .raised _ (by simp [Err.cause])

/-- Every next state of a command is one of the effects. -/
theorem exec_effect {i : Instr} {s t : State} (h : exec i s = .next t) : Effect s t := by
  cases i with
  | create ord n =>
    simp only [exec, execCreate] at h
    rcases withConstructor_cases ord (signed n) s fun o n => .next (respond .ok { s.createBuffer o n with life := .core })
      with ⟨e, he, h'⟩ | ⟨o, hl, -, h0, hn, h'⟩ <;> rw [h'] at h <;> injection h with h <;> subst h
    · exact .raised e he
    · exact .created o _ hl (by omega)
  | setpxP index cw => exact colourSet_effect h
  | setpxC index cw => exact colourSet_effect h
  | setpxA index cw => exact setPixel_effect h
  | setpxmP x y w cw => exact colourSet_effect h
  | setpxmC x y w cw => exact colourSet_effect h
  | setpxmA x y w cw => exact setPixel_effect h
  | setopt flag =>
    simp only [exec, execSetopt, requireBuffer] at h
    rcases require_cases (s.life ≠ .empty) (.illegalState s.life) s (.next (respond .ok { s with opt := flag })) with
      ⟨hl, h'⟩ | ⟨-, h'⟩ <;> rw [h'] at h <;> injection h with h <;> subst h
    · exact .option flag hl
    · exact .raised _ (by simp [Err.cause])
  | encode =>
    simp only [exec, execEncode, requireBuffer] at h
    rcases require_cases (s.life ≠ .empty) (.illegalState s.life) s
      (.next (respond .ok { s.emit (.frame s.encodedFrame) with scan := 0 })) with
      ⟨hl, h'⟩ | ⟨-, h'⟩ <;> rw [h'] at h <;> injection h with h <;> subst h
    · exact .encoded hl
    · exact .raised _ (by simp [Err.cause])
  | init ord n dz d1 f rd =>
    simp only [exec, execInit] at h
    rcases withConstructor_cases ord (signed n) s fun o n =>
        callAdapter .initialise (s.committed o n dz d1 f rd) fun s =>
        callAdapter (.configurePattern s.pattern) s fun s => .next (respond .ok s)
      with ⟨e, he, h'⟩ | ⟨o, hl, -, h0, hn, h'⟩ <;> rw [h'] at h
    · injection h with h; subst h; exact .raised e he
    · exact .inited o _ dz d1 f rd t hl (by omega) (initCalls_effect h).1
  | start =>
    simp only [exec, execStart, requireFacade] at h
    rcases require_cases (s.life = .facade) (.illegalState s.life) s
      (forward (.send s.encodedFrame) { s with scan := 0 }) with ⟨hl, h'⟩ | ⟨-, h'⟩ <;> rw [h'] at h
    · exact .started t hl (forward_effect h)
    · injection h with h; subst h; exact .raised _ (by simp [Err.cause])
  | wait =>
    simp only [exec, execWait, requireFacade] at h
    rcases require_cases (s.life = .facade) (.illegalState s.life) s (forward .awaitCompletion s) with
      ⟨hl, h'⟩ | ⟨-, h'⟩ <;> rw [h'] at h
    · exact .forwarded t hl (forward_effect h)
    · injection h with h; subst h; exact .raised _ (by simp [Err.cause])
  | cleanup =>
    simp only [exec, execCleanup, requireFacade] at h
    rcases require_cases (s.life = .facade) (.illegalState s.life) s (forward .teardown s) with
      ⟨hl, h'⟩ | ⟨-, h'⟩ <;> rw [h'] at h
    · exact .forwarded t hl (forward_effect h)
    · injection h with h; subst h; exact .raised _ (by simp [Err.cause])

/-- A call sequence leaves every register but `FAULT` alone. -/
theorem CallEffect.frame {b t : State} (h : CallEffect b t) :
    t = { b with fault := t.fault, port := t.port, trace := t.trace, adapter := t.adapter } := by
  cases h <;> rfl

/-- What a call sequence emits: its calls, and then `OK`, `ERR` or nothing yet. -/
theorem CallEffect.emitted {b t : State} (h : CallEffect b t) :
    ∃ cs : List AdpCall,
      (t.trace = b.trace ++ cs.map Event.call ++ [.response .ok] ∧ t.fault = b.fault ∧ t.port = b.port) ∨
      (∃ sig, t.trace = b.trace ++ cs.map Event.call ++ [.response (.err (.adapterFailure sig))] ∧
        t.fault = stickyFault b.fault .adapterFailure ∧ t.port = b.port) ∨
      (t.trace = b.trace ++ cs.map Event.call ∧ t.fault = b.fault ∧ cs = [.awaitCompletion] ∧
        (t.port = .unanswered ∨ t.port = .holding ∧ t.adapter.isReference = true)) := by
  cases h with
  | done cs a => exact ⟨cs, .inl ⟨by simp, rfl, rfl⟩⟩
  | failed cs a sig => exact ⟨cs, .inr (.inl ⟨sig, by simp, rfl, rfl⟩)⟩
  | waiting a p hp =>
    exact ⟨[.awaitCompletion], .inr (.inr ⟨rfl, rfl, rfl, hp.imp_right fun h => ⟨h.1, h.2.1⟩⟩)⟩

/-- What a command emits last and what it makes of `FAULT`: an `ERR` with the first cause recorded, an `OK`, or calls that
are not all answered yet. -/
theorem Effect.emitted {s t : State} (h : Effect s t) :
    (∃ es e, t.trace = s.trace ++ es ++ [.response (.err e)] ∧ t.fault = stickyFault s.fault e.cause) ∨
    (∃ es, t.trace = s.trace ++ es ++ [.response .ok] ∧ t.fault = s.fault) ∨
    (∃ cs : List AdpCall, t.trace = s.trace ++ cs.map Event.call ∧ t.fault = s.fault) := by
  have calls {b : State} (hb : b.trace = s.trace) (hf : b.fault = s.fault) (h : CallEffect b t) :
      (∃ es e, t.trace = s.trace ++ es ++ [.response (.err e)] ∧ t.fault = stickyFault s.fault e.cause) ∨
      (∃ es, t.trace = s.trace ++ es ++ [.response .ok] ∧ t.fault = s.fault) ∨
      (∃ cs : List AdpCall, t.trace = s.trace ++ cs.map Event.call ∧ t.fault = s.fault) := by
    rw [← hb, ← hf]
    obtain ⟨cs, ⟨h1, h2, -⟩ | ⟨sig, h1, h2, -⟩ | ⟨h1, h2, -, -⟩⟩ := h.emitted
    · exact .inr (.inl ⟨_, h1, h2⟩)
    · exact .inl ⟨_, _, h1, h2⟩
    · exact .inr (.inr ⟨cs, h1, h2⟩)
  cases h with
  | raised e => exact .inl ⟨[], e, by simp, rfl⟩
  | encoded => exact .inr (.inl ⟨[.frame s.encodedFrame], by simp, rfl⟩)
  | inited o n dz d1 f rd t hl hn h => exact calls (b := s.committed o n dz d1 f rd) rfl rfl h
  | started t hl h => exact calls (b := { s with scan := 0 }) rfl rfl h
  | forwarded t hl h => exact calls rfl rfl h
  | _ => exact .inr (.inl ⟨[], by simp, rfl⟩)

end Sys2Proof.Machine
end

