-- ==== Sys2Proof/Laws/Memory.lean ====
section
/-! SUPPORT. The laws of the slot memory (20_memory R30, R31, R35): read after write, the canonical form, and that equal
memories are equal data. -/

namespace Sys2Proof.Machine

namespace Memory

@[simp] theorem read_nil (i : Nat) : read [] i = blank := rfl

@[simp] theorem read_clear (i : Nat) : clear.read i = blank := rfl

theorem read_cons (k i : Nat) (c : PixelColor) (m : Memory) :
    read ((k, c) :: m) i = if k = i then c else m.read i := rfl

/-- An index that is not listed reads as black. -/
theorem read_of_not_mem {m : Memory} {i : Nat} (h : ∀ e ∈ m, e.1 ≠ i) : m.read i = blank := by
  induction m with
  | nil => rfl
  | cons e m ih =>
    obtain ⟨k, c⟩ := e
    have he : k ≠ i := h (k, c) (by simp)
    rw [read_cons, if_neg he, ih fun x hx => h x (by simp [hx])]

/-- Listing an entry in front makes that index read as its colour, if nothing behind is listed there. -/
theorem read_cell (i j : Nat) (c : PixelColor) (m : Memory) (h : ∀ e ∈ m, e.1 ≠ i) :
    (cell i c m).read j = if i = j then c else m.read j := by
  unfold cell
  split
  · next hc =>
    split
    · next hij => rw [hc, ← hij, read_of_not_mem h]
    · rfl
  · rfl

/-- A listed index of a cell is its own or one that was listed before. -/
theorem mem_cell {i : Nat} {c : PixelColor} {m : Memory} {e : Nat × PixelColor} (h : e ∈ cell i c m) :
    e = (i, c) ∧ c ≠ blank ∨ e ∈ m := by
  unfold cell at h
  split at h
  · exact .inr h
  · next hc => rcases List.mem_cons.mp h with h | h
               · exact .inl ⟨h, hc⟩
               · exact .inr h

/-- A listed entry after a write is the one written or one listed before at another index. -/
theorem mem_write {m : Memory} {i : Nat} {c : PixelColor} {e : Nat × PixelColor} (hm : m.wf)
    (h : e ∈ m.write i c) : e = (i, c) ∧ c ≠ blank ∨ e ∈ m ∧ e.1 ≠ i := by
  induction m with
  | nil =>
    rcases mem_cell h with h | h
    · exact .inl h
    · cases h
  | cons d m ih =>
    obtain ⟨k, d⟩ := d
    obtain ⟨hp, hb⟩ := hm
    obtain ⟨hk, hp⟩ := List.pairwise_cons.mp hp
    have hw : wf m := ⟨hp, fun e he => hb e (by simp [he])⟩
    simp only [write] at h
    split at h
    · next hki =>
      rcases List.mem_cons.mp h with h | h
      · right; subst h; exact ⟨by simp, by simpa using Nat.ne_of_lt hki⟩
      · rcases ih hw h with h | ⟨h, h'⟩
        · exact .inl h
        · exact .inr ⟨by simp [h], h'⟩
    · split at h
      · next hki =>
        subst hki
        rcases mem_cell h with h | h
        · exact .inl h
        · exact .inr ⟨by simp [h], Nat.ne_of_gt (hk e h)⟩
      · next h1 h2 =>
        rcases mem_cell h with h | h
        · exact .inl h
        · right
          refine ⟨h, ?_⟩
          rcases List.mem_cons.mp h with h | h
          · subst h; exact h2
          · have := hk e h; simp only at this; omega

/-- Writing a cell in front of larger indices keeps the canonical form. -/
theorem cell_wf {i : Nat} {c : PixelColor} {m : Memory} (hm : m.wf) (h : ∀ e ∈ m, i < e.1) : (cell i c m).wf := by
  unfold cell
  split
  · exact hm
  · next hc =>
    refine ⟨List.pairwise_cons.mpr ⟨h, hm.1⟩, ?_⟩
    intro e he
    rcases List.mem_cons.mp he with he | he
    · subst he; exact hc
    · exact hm.2 e he

/-- A write keeps the canonical form. -/
theorem write_wf {m : Memory} (hm : m.wf) (i : Nat) (c : PixelColor) : (m.write i c).wf := by
  induction m with
  | nil => exact cell_wf hm (by simp)
  | cons d m ih =>
    obtain ⟨k, d⟩ := d
    obtain ⟨hp, hb⟩ := hm
    obtain ⟨hk, hp'⟩ := List.pairwise_cons.mp hp
    have hw : wf m := ⟨hp', fun e he => hb e (by simp [he])⟩
    simp only [write]
    split
    · next hki =>
      refine ⟨List.pairwise_cons.mpr ⟨?_, (ih hw).1⟩, ?_⟩
      · intro e he
        rcases mem_write hw he with ⟨h, -⟩ | ⟨h, -⟩
        · subst h; exact hki
        · exact hk e h
      · intro e he
        rcases List.mem_cons.mp he with he | he
        · subst he; exact hb _ (by simp)
        · exact (ih hw).2 e he
    · split
      · next hki => subst hki; exact cell_wf hw hk
      · refine cell_wf ⟨hp, hb⟩ ?_
        intro e he
        rcases List.mem_cons.mp he with he | he
        · subst he; simp only; omega
        · have := hk e he; simp only at this; omega

theorem clear_wf : clear.wf := ⟨List.Pairwise.nil, by simp [clear]⟩

/-- Read after write, at every index, for a canonical memory. -/
theorem read_write {m : Memory} (hm : m.wf) (i j : Nat) (c : PixelColor) :
    (m.write i c).read j = if i = j then c else m.read j := by
  induction m with
  | nil => exact read_cell i j c [] (by simp)
  | cons d m ih =>
    obtain ⟨k, d⟩ := d
    obtain ⟨hp, hb⟩ := hm
    obtain ⟨hk, hp'⟩ := List.pairwise_cons.mp hp
    have hw : wf m := ⟨hp', fun e he => hb e (by simp [he])⟩
    simp only [write]
    split
    · next hki =>
      rw [read_cons, read_cons, ih hw]
      by_cases h : k = j
      · have : i ≠ j := by omega
        simp [h, this]
      · simp [h]
    · split
      · next hki =>
        subst hki
        rw [read_cell _ _ _ _ fun e he => Nat.ne_of_gt (hk e he), read_cons]
        split <;> simp_all
      · refine read_cell _ _ _ _ fun e he => ?_
        rcases List.mem_cons.mp he with he | he
        · subst he; assumption
        · have := hk e he; simp only at this; omega

/-- A write leaves every other index alone, canonical or not. -/
theorem read_write_ne (m : Memory) {i j : Nat} (h : i ≠ j) (c : PixelColor) : (m.write i c).read j = m.read j := by
  have hc : ∀ n : Memory, (cell i c n).read j = n.read j := by
    intro n
    unfold cell
    split
    · rfl
    · rw [read_cons, if_neg h]
  induction m with
  | nil => exact hc []
  | cons d m ih =>
    obtain ⟨k, d⟩ := d
    simp only [write]
    split
    · rw [read_cons, read_cons, ih]
    · split
      · next hki => rw [hc, read_cons, if_neg (by omega)]
      · exact hc _

/-- A listed entry of a canonical memory is what its index reads as. -/
theorem read_of_mem {m : Memory} (hm : m.wf) {e : Nat × PixelColor} (he : e ∈ m) : m.read e.1 = e.2 := by
  induction m with
  | nil => cases he
  | cons d m ih =>
    obtain ⟨k, d⟩ := d
    obtain ⟨hk, hp'⟩ := List.pairwise_cons.mp hm.1
    rcases List.mem_cons.mp he with he | he
    · subst he; simp [read_cons]
    · have : k ≠ e.1 := Nat.ne_of_lt (hk e he)
      rw [read_cons, if_neg this]
      exact ih ⟨hp', fun e he => hm.2 e (by simp [he])⟩ he

/-- Two canonical memories that read alike at every index are the same data. -/
theorem ext_of_read {m m' : Memory} (hm : m.wf) (hm' : m'.wf) (h : ∀ i, m.read i = m'.read i) : m = m' := by
  induction m generalizing m' with
  | nil =>
    cases m' with
    | nil => rfl
    | cons e m' =>
      exact absurd ((read_of_mem hm' (e := e) (by simp)).symm.trans (h e.1).symm) (hm'.2 e (by simp))
  | cons e m ih =>
    cases m' with
    | nil => exact absurd ((read_of_mem hm (e := e) (by simp)).symm.trans (h e.1)) (hm.2 e (by simp))
    | cons e' m' =>
      obtain ⟨hk, hp⟩ := List.pairwise_cons.mp hm.1
      obtain ⟨hk', hp'⟩ := List.pairwise_cons.mp hm'.1
      have wm : wf m := ⟨hp, fun x hx => hm.2 x (by simp [hx])⟩
      have wm' : wf m' := ⟨hp', fun x hx => hm'.2 x (by simp [hx])⟩
      have below : ∀ {x : Nat × PixelColor} {n : Memory}, (∀ y ∈ n, x.1 < y.1) → ∀ i ≤ x.1, n.read i = blank :=
        fun hx i hi => read_of_not_mem fun y hy => by have := hx y hy; omega
      have hr := read_of_mem hm (e := e) (by simp)
      have hr' := read_of_mem hm' (e := e') (by simp)
      have hle : e.1 = e'.1 := by
        rcases Nat.lt_trichotomy e.1 e'.1 with hlt | heq | hgt
        · have : read (e' :: m') e.1 = blank :=
            (read_cons _ _ _ _).trans ((if_neg (by omega)).trans (below hk' _ (by omega)))
          exact absurd (hr.symm.trans ((h _).trans this)) (hm.2 e (by simp))
        · exact heq
        · have : read (e :: m) e'.1 = blank :=
            (read_cons _ _ _ _).trans ((if_neg (by omega)).trans (below hk _ (by omega)))
          exact absurd (hr'.symm.trans ((h _).symm.trans this)) (hm'.2 e' (by simp))
      have he : e = e' := Prod.ext hle (hr.symm.trans ((h e.1).trans (hle ▸ hr')))
      subst he
      refine congrArg _ (ih wm wm' fun i => ?_)
      rcases Nat.lt_or_ge e.1 i with hlt | hge
      · have := h i
        rwa [read_cons, read_cons, if_neg (by omega), if_neg (by omega)] at this
      · rw [below hk i hge, below hk' i hge]

end Memory

end Sys2Proof.Machine
end

