-- ==== Sys2Proof/Laws/PerInstr.lean ====
section
/-! SUPPORT. Families of statements about the thirteen commands as syntax, one lemma per constructor. -/

/-- The words of a command begin with a header that selects a row of the opcode map whose length they have
(30_encoding R50, R51). -/
def Sys2Proof.Laws.HeaderSelectsRow.Statement (i : Sys2Proof.Instr) : Prop :=
  ∃ h ws r, Sys2Proof.encode i = h :: ws ∧ Sys2Proof.selectRow h = some r ∧ r.format.words = ws.length + 1

namespace Sys2Proof.Laws.HeaderSelectsRow

theorem create (ord : BitVec 3) (n : Word) : Statement (.create ord n) :=
  ⟨_, _, ⟨.create, .c, 0x01000000#32, 0xFFFFFFF8#32⟩, rfl, by revert ord; decide, rfl⟩

theorem setpxP (index cw : Word) : Statement (.setpxP index cw) := ⟨_, _, _, rfl, rfl, rfl⟩

theorem setpxC (index cw : Word) : Statement (.setpxC index cw) := ⟨_, _, _, rfl, rfl, rfl⟩

theorem setpxA (index cw : Word) : Statement (.setpxA index cw) := ⟨_, _, _, rfl, rfl, rfl⟩

theorem setpxmP (x y w cw : Word) : Statement (.setpxmP x y w cw) := ⟨_, _, _, rfl, rfl, rfl⟩

theorem setpxmC (x y w cw : Word) : Statement (.setpxmC x y w cw) := ⟨_, _, _, rfl, rfl, rfl⟩

theorem setpxmA (x y w cw : Word) : Statement (.setpxmA x y w cw) := ⟨_, _, _, rfl, rfl, rfl⟩

theorem setopt (flag : Bool) : Statement (.setopt flag) :=
  ⟨_, _, ⟨.setopt, .f, 0x04000000#32, 0xFFFFFFFE#32⟩, rfl, by cases flag <;> decide, rfl⟩

theorem encode : Statement .encode := ⟨_, _, _, rfl, rfl, rfl⟩

theorem init (ord : BitVec 3) (n dz d1 f rd : Word) : Statement (.init ord n dz d1 f rd) :=
  ⟨_, _, ⟨.init, .i, 0x10000000#32, 0xFFFFFFF8#32⟩, rfl, by revert ord; decide, rfl⟩

theorem start : Statement .start := ⟨_, _, _, rfl, rfl, rfl⟩

theorem wait : Statement .wait := ⟨_, _, _, rfl, rfl, rfl⟩

theorem cleanup : Statement .cleanup := ⟨_, _, _, rfl, rfl, rfl⟩

end Sys2Proof.Laws.HeaderSelectsRow
end

