-- ==== Sys2Proof/Laws/Serializer.lean ====
section
/-! SUPPORT. The frame as memory (20_memory R32, R33), and the loop of 42_encode_serializer R100. -/

namespace Sys2Proof.Machine

@[simp] theorem memWrite_length (f : Frame) (addr : Nat) (w : Word24) : (Frame.memWrite f addr w).length = f.length := by
  simp [Frame.memWrite]

/-- A byte of the frame outside the three written ones reads as before. -/
theorem memWrite_of_outside (f : Frame) (addr k : Nat) (w : Word24) (h : k < addr ∨ addr + 3 ≤ k) :
    (Frame.memWrite f addr w)[k]? = f[k]? := by
  simp only [Frame.memWrite]
  rw [List.getElem?_set_ne (by omega), List.getElem?_set_ne (by omega), List.getElem?_set_ne (by omega)]

/-- The three written bytes, most significant first. -/
theorem memWrite_inside (f : Frame) (addr : Nat) (w : Word24) (h : addr + 3 ≤ f.length) :
    (Frame.memWrite f addr w)[addr]? = some (w.extractLsb' 16 8) ∧
    (Frame.memWrite f addr w)[addr + 1]? = some (w.extractLsb' 8 8) ∧
    (Frame.memWrite f addr w)[addr + 2]? = some (w.extractLsb' 0 8) := by
  simp only [Frame.memWrite, List.getElem?_set, List.length_set]
  refine ⟨?_, ?_, ?_⟩ <;> simp <;> omega

/-- The loop after its first `n` turns. -/
def serializePrefix (s : State) (n : Nat) : Serializer :=
  (List.range n).foldl (serializeSlot s) { frame := List.replicate (3 * s.num) 0#8, scan := 0 }

theorem serialize_eq (s : State) : serialize s = serializePrefix s s.num := rfl

@[simp] theorem serializePrefix_zero (s : State) :
    serializePrefix s 0 = { frame := List.replicate (3 * s.num) 0#8, scan := 0 } := rfl

theorem serializePrefix_succ (s : State) (n : Nat) :
    serializePrefix s (n + 1) = serializeSlot s (serializePrefix s n) n := by
  simp [serializePrefix, List.range_succ]

@[simp] theorem serializePrefix_length (s : State) (n : Nat) : (serializePrefix s n).frame.length = 3 * s.num := by
  induction n with
  | zero => simp
  | succ n ih => rw [serializePrefix_succ]; simpa [serializeSlot] using ih

/-- `scan` counts the frame bytes already produced (10_state R21). -/
@[simp] theorem serializePrefix_scan (s : State) (n : Nat) : (serializePrefix s n).scan = 3 * n := by
  cases n with
  | zero => rfl
  | succ n => rw [serializePrefix_succ]; simp only [serializeSlot]; omega

end Sys2Proof.Machine
end

