-- ==== Sys2Proof/Laws/Within.lean ====
section
/-! SUPPORT. What the first piece of a command and every further piece can do, said once each. -/

namespace Sys2Proof.Machine

/-- A micro-step on the state appends byte `scan`. -/
theorem serializeByte_eq {s : State} (h : s.scan < 3 * s.num) :
    serializeByte s = { s with frame := s.frame ++ [s.frameByte s.scan], scan := s.scan + 1 } := by
  simp [serializeByte, microStep, h]

/-- The block is inside the call `c` of the adapter `a`: with an answer to take, or, inside an `awaitCompletion`, without. -/
def InCall (c : AdpCall) (a : Adapter) (p : PortState) : Prop :=
  (∃ ans, p = .calling c ans) ∨ (c = .awaitCompletion ∧ (p = .unanswered ∨ p = .holding ∧ a.isReference = true))

theorem InCall.ofFacade {c : AdpCall} {a : Adapter} {p : PortState} (h : InCall c a p) : p.ofFacade = true := by
  rcases h with ⟨ans, rfl⟩ | ⟨-, rfl | ⟨rfl, -⟩⟩ <;> rfl

theorem InCall.isReference {c : AdpCall} {a : Adapter} {p : PortState} (h : InCall c a p) (hp : p = .holding) :
    a.isReference = true := by
  rcases h with ⟨ans, rfl⟩ | ⟨-, rfl | ⟨-, hr⟩⟩
  · cases hp
  · cases hp
  · exact hr

/-- No frame stands inside a call other than `send`. -/
theorem InCall.hasFrame {c : AdpCall} {a : Adapter} {p : PortState} (h : InCall c a p) (hc : ∀ f, c ≠ .send f) :
    p.hasFrame = false := by
  rcases h with ⟨ans, rfl⟩ | ⟨-, rfl | ⟨rfl, -⟩⟩
  · cases c <;> first | rfl | exact absurd rfl (hc _)
  · rfl
  · rfl

/-- A `send` is always answered. -/
theorem InCall.send {f : Frame} {a : Adapter} {p : PortState} (h : InCall (.send f) a p) :
    ∃ ans, p = .calling (.send f) ans := by
  rcases h with h | ⟨hc, -⟩
  · exact h
  · cases hc

/-- Everything issuing a call can do: the adapter acts, and the block is inside the call. -/
theorem issue_next {c : AdpCall} {s t : State} (h : issue c s = .next t) :
    ∃ a p, t = { s.emit (.call c) with adapter := a, port := p } ∧ InCall c a p := by
  unfold issue at h
  split at h
  · injection h with h; exact ⟨_, _, h.symm, .inl ⟨_, rfl⟩⟩
  · injection h with h; exact ⟨_, _, h.symm, .inl ⟨_, rfl⟩⟩
  · next hc => injection h with h; exact ⟨_, _, h.symm, .inr ⟨(call_unanswered hc).1, .inl rfl⟩⟩
  · next hc =>
    injection h with h
    obtain ⟨he, rfl, r, answers, hr, -⟩ := call_hold hc
    exact ⟨_, _, h.symm, .inr ⟨he, .inr ⟨rfl, by rw [hr]; rfl⟩⟩⟩
  · cases h

/-- A call that is answered leaves the block with the answer still to take. -/
theorem issue_ok {c : AdpCall} {s : State} {a : Adapter} (h : s.adapter.call c = .ok a) :
    issue c s = .next { s.emit (.call c) with adapter := a, port := .calling c .ok } := by
  simp [issue, h]

/-- What the first piece of a command can do. -/
inductive BeginEffect (s : State) : State → Prop
  /-- The command is one piece, or was refused by a check. -/
  | whole (t : State) (h : Effect s t) : BeginEffect s t
  | frame (d : Destination) (hl : s.life ≠ .empty) (hf : d = .adapter → s.life = .facade) :
      BeginEffect s { s with frame := [], scan := 0, port := .serializing d }
  | call (c : AdpCall) (a : Adapter) (p : PortState) (hl : s.life = .facade) (hc : ∀ f, c ≠ .send f) (hp : InCall c a p) :
      BeginEffect s { s.emit (.call c) with adapter := a, port := p }
  | init (o : ChannelOrder) (n : Nat) (dz d1 f rd : Word) (a : Adapter) (p : PortState) (hl : s.life = .empty)
      (hn : n ≤ s.cfg.nMax.val) (hp : InCall .initialise a p) :
      BeginEffect s { (s.committed o n dz d1 f rd).emit (.call .initialise) with adapter := a, port := p }

/-- A check of the lifecycle before the first piece. -/
theorem require_begin {c : Prop} [Decidable c] {e : Err} {s t : State} {k : Out} (he : e.cause ≠ .adapterFailure)
    (h : require c e s k = .next t) (hk : c → k = .next t → BeginEffect s t) : BeginEffect s t := by
  rcases require_cases c e s k with ⟨hc, h'⟩ | ⟨-, h'⟩ <;> rw [h'] at h
  · exact hk hc h
  · injection h with h; subst h; exact .whole _ (.raised e he)

/-- Every next state of a first piece is one of the effects. -/
theorem begin_effect {i : Instr} {s t : State} (h : beginCommand i s = .next t) : BeginEffect s t := by
  cases i with
  | encode =>
    exact require_begin (by simp [Err.cause]) h fun hl h => by
      injection h with h; subst h; exact .frame .out hl (by simp)
  | start =>
    exact require_begin (by simp [Err.cause]) h fun hl h => by
      injection h with h; subst h; exact .frame .adapter (by simp [hl]) fun _ => hl
  | wait =>
    exact require_begin (by simp [Err.cause]) h fun hl h => by
      obtain ⟨a, p, rfl, hp⟩ := issue_next h; exact .call _ a p hl (by simp) hp
  | cleanup =>
    exact require_begin (by simp [Err.cause]) h fun hl h => by
      obtain ⟨a, p, rfl, hp⟩ := issue_next h; exact .call _ a p hl (by simp) hp
  | init ord n dz d1 f rd =>
    simp only [beginCommand] at h
    rcases withConstructor_cases ord (signed n) s fun o n => issue .initialise (s.committed o n dz d1 f rd) with
      ⟨e, he, h'⟩ | ⟨o, hl, -, h0, hn, h'⟩ <;> rw [h'] at h
    · injection h with h; subst h; exact .whole _ (.raised e he)
    · obtain ⟨a, p, rfl, hp⟩ := issue_next h
      exact .init o _ dz d1 f rd a p hl (by omega) hp
  | create ord n => exact .whole t (exec_effect (i := .create ord n) h)
  | setpxP index cw => exact .whole t (exec_effect (i := .setpxP index cw) h)
  | setpxC index cw => exact .whole t (exec_effect (i := .setpxC index cw) h)
  | setpxA index cw => exact .whole t (exec_effect (i := .setpxA index cw) h)
  | setpxmP x y w cw => exact .whole t (exec_effect (i := .setpxmP x y w cw) h)
  | setpxmC x y w cw => exact .whole t (exec_effect (i := .setpxmC x y w cw) h)
  | setpxmA x y w cw => exact .whole t (exec_effect (i := .setpxmA x y w cw) h)
  | setopt flag => exact .whole t (exec_effect (i := .setopt flag) h)

/-- What a further piece of a command can do. -/
inductive AdvanceEffect (s : State) : State → Prop
  | stay (hp : s.port = .ready ∨ s.port = .unanswered) : AdvanceEffect s s
  | byte (d : Destination) (hp : s.port = .serializing d) (hn : s.scan < 3 * s.num) :
      AdvanceEffect s { s with frame := s.frame ++ [s.frameByte s.scan], scan := s.scan + 1 }
  | frameOut (hp : s.port = .serializing .out) (hn : 3 * s.num ≤ s.scan) :
      AdvanceEffect s { s.emit (.frame s.frame) with port := .delivered }
  | frameSent (a : Adapter) (ans : AdpAnswer) (hp : s.port = .serializing .adapter) (hn : 3 * s.num ≤ s.scan) :
      AdvanceEffect s { s.emit (.call (.send s.frame)) with adapter := a, port := .calling (.send s.frame) ans }
  | configured (a : Adapter) (p : PortState) (hp : s.port = .calling .initialise .ok)
      (hp' : InCall (.configurePattern s.pattern) a p) :
      AdvanceEffect s { s.close.emit (.call (.configurePattern s.pattern)) with adapter := a, port := p }
  | responded (hp : s.port = .delivered ∨ ∃ c, s.port = .calling c .ok) : AdvanceEffect s (respond .ok s.close)
  | failed (c : AdpCall) (sig : AdpSignal) (hp : s.port = .calling c (.fail sig)) :
      AdvanceEffect s (raise (.adapterFailure sig) s.close)
  | awaited (a : Adapter) (hp : s.port = .holding) : AdvanceEffect s (respond .ok { s with adapter := a, port := .ready })
  | awaitFailed (sig : AdpSignal) (a : Adapter) (hp : s.port = .holding) :
      AdvanceEffect s (raise (.adapterFailure sig) { s with adapter := a, port := .ready })
  | waiting (a : Adapter) (p : PortState) (hp : s.port = .holding)
      (hw : p = .unanswered ∨ p = .holding ∧ a.isReference = true) :
      AdvanceEffect s { s with adapter := a, port := p }
  | completed (hp : s.port = .holding) : AdvanceEffect s { s with adapter := s.adapter.complete }

/-- Every next state of a further piece is one of the effects. -/
theorem advance_effect {s t : State} (h : advance s = .next t) : AdvanceEffect s t := by
  unfold advance at h
  cases hp : s.port with
  | ready => simp only [hp] at h; injection h with h; subst h; exact .stay (.inl hp)
  | unanswered => simp only [hp] at h; injection h with h; subst h; exact .stay (.inr hp)
  | holding =>
    simp only [hp] at h
    split at h
    · injection h with h; subst h; simpa only [hp] using AdvanceEffect.completed hp
    · rcases takeAnswer_cases .awaitCompletion { s with port := .ready } (afterAnswer .awaitCompletion) with
        ⟨a, -, h'⟩ | ⟨sig, a, -, h'⟩ | ⟨a, -, -, h'⟩ | ⟨-, hr, -, h'⟩ | ⟨-, -, h'⟩ <;> rw [h'] at h
      · injection h with h; subst h; exact .awaited a hp
      · injection h with h; subst h; exact .awaitFailed sig a hp
      · injection h with h; subst h; exact .waiting a _ hp (.inl rfl)
      · injection h with h; subst h; exact .waiting s.adapter _ hp (.inr ⟨rfl, hr⟩)
      · cases h
  | serializing d =>
    simp only [hp] at h
    split at h
    · next hn => injection h with h; subst h; rw [serializeByte_eq hn]; exact .byte d hp hn
    · next hn =>
      cases d with
      | out => injection h with h; subst h; exact .frameOut hp (by omega)
      | adapter =>
        obtain ⟨a, p, rfl, hp'⟩ := issue_next h
        obtain ⟨ans, rfl⟩ := hp'.send
        exact .frameSent a ans hp (by omega)
  | delivered => simp only [hp] at h; injection h with h; subst h; exact .responded (.inl hp)
  | calling c a =>
    cases a with
    | ok =>
      simp only [hp] at h
      cases c with
      | initialise =>
        obtain ⟨a, p, rfl, hp'⟩ := issue_next h
        exact .configured a p hp hp'
      | _ => injection h with h; subst h; exact .responded (.inr ⟨_, hp⟩)
    | fail sig => simp only [hp] at h; injection h with h; subst h; exact .failed c sig hp

end Sys2Proof.Machine
end

