-- ==== Sys2Proof/Laws/Step.lean ====
section
/-! SUPPORT. The command stream, and what one step can do, said once. -/

namespace Sys2Proof.Machine

theorem leadingWords_append (ws : List Word) (tail : List Input) :
    leadingWords (ws.map Input.word ++ tail) = ws ++ leadingWords tail := by
  induction ws with
  | nil => rfl
  | cons w ws ih => simp [leadingWords, ih]

theorem afterWords_append (ws : List Word) (tail : List Input) :
    afterWords (ws.map Input.word ++ tail) = afterWords tail := by
  induction ws with
  | nil => rfl
  | cons w ws ih => simp [afterWords, ih]

/-- The inputs are the leading words and what stands behind them. -/
theorem leadingWords_afterWords (l : List Input) : (leadingWords l).map Input.word ++ afterWords l = l := by
  induction l with
  | nil => rfl
  | cons x l ih => cases x <;> simp [leadingWords, afterWords, ih]

/-- A `tick` directly behind a command asks for its first piece. -/
theorem perform_tick (i : Instr) (tail : List Input) (s : State) :
    perform i [] (.tick :: tail) s = beginCommand i { s with inputs := tail } := rfl

/-- Otherwise the command is one step. -/
theorem perform_whole {rest : List Word} {tail : List Input} (h : rest = [] → ∀ l, tail ≠ .tick :: l) (i : Instr) (s : State) :
    perform i rest tail s = exec i { s with inputs := rest.map Input.word ++ tail } := by
  unfold perform
  split
  · next l => exact absurd rfl (h rfl l)
  · rfl

theorem perform_cases (i : Instr) (rest : List Word) (tail : List Input) (s : State) :
    (∃ l, rest = [] ∧ tail = .tick :: l ∧ perform i rest tail s = beginCommand i { s with inputs := l }) ∨
    perform i rest tail s = exec i { s with inputs := rest.map Input.word ++ tail } := by
  by_cases h : rest = [] → ∀ l, tail ≠ .tick :: l
  · exact .inr (perform_whole h i s)
  · push Not at h
    obtain ⟨rfl, l, rfl⟩ := h
    exact .inl ⟨l, rfl, rfl, rfl⟩

/-- Waiting for a word: a reset, a step of the adapter, a tick, or nothing. -/
theorem idle_cases (pending : List Word) (tail : List Input) (s : State) :
    (∃ rest, tail = .reset :: rest ∧ idle pending tail s = resetBlock { s with inputs := rest }) ∨
    (∃ rest, tail = .complete :: rest ∧
      idle pending tail s = { s with adapter := s.adapter.complete, inputs := pending.map Input.word ++ rest }) ∨
    (∃ rest, tail = .tick :: rest ∧ idle pending tail s = { s with inputs := pending.map Input.word ++ rest }) ∨
    idle pending tail s = s := by
  match tail with
  | .reset :: rest => exact .inl ⟨rest, rfl, rfl⟩
  | .complete :: rest => exact .inr (.inl ⟨rest, rfl, rfl⟩)
  | .tick :: rest => exact .inr (.inr (.inl ⟨rest, rfl, rfl⟩))
  | .word _ :: _ => exact .inr (.inr (.inr rfl))
  | [] => exact .inr (.inr (.inr rfl))

/-- A step inside a command: a reset, a step of the adapter, or the block's next piece. -/
theorem stepWithin_cases (s : State) :
    (∃ rest, s.inputs = .reset :: rest ∧ stepWithin s = .next (resetBlock { s with inputs := rest })) ∨
    (∃ rest, s.inputs = .complete :: rest ∧
      stepWithin s = .next { s with adapter := s.adapter.complete, inputs := rest }) ∨
    (∃ ins, (s.inputs = .tick :: ins ∨ s.inputs = ins) ∧ stepWithin s = advance { s with inputs := ins }) := by
  unfold stepWithin
  match h : s.inputs with
  | .reset :: rest => exact .inl ⟨rest, rfl, rfl⟩
  | .complete :: rest => exact .inr (.inl ⟨rest, rfl, rfl⟩)
  | .tick :: rest => exact .inr (.inr ⟨rest, .inl rfl, rfl⟩)
  | .word w :: rest =>
    exact .inr (.inr ⟨_, .inr rfl, by show advance s = advance { s with inputs := .word w :: rest }; rw [← h]⟩)
  | [] => exact .inr (.inr ⟨_, .inr rfl, by show advance s = advance { s with inputs := [] }; rw [← h]⟩)

theorem step_ready {s : State} (h : s.port = .ready) : step s = stepReady s := if_pos h

theorem step_within {s : State} (h : s.port ≠ .ready) : step s = stepWithin s := if_neg h

/-- What one step can do to the state. -/
inductive StepEffect (s : State) : State → Prop
  /-- A command was taken and executed. -/
  | command (i : Instr) (ins : List Input) (t : State) (hp : s.port = .ready)
      (he : exec i { s with inputs := ins } = .next t) : StepEffect s t
  /-- A command was taken and its first piece executed. -/
  | began (i : Instr) (ins : List Input) (t : State) (hp : s.port = .ready)
      (he : beginCommand i { s with inputs := ins } = .next t) : StepEffect s t
  /-- An illegal encoding was refused. -/
  | illegal (w : Word) (rest : List Word) (hp : s.port = .ready) :
      StepEffect s (raise (.illegalCommand w) (s.withWords rest))
  /-- Reset was asserted. -/
  | reset (ws : List Word) (rest : List Input) (hi : s.inputs = ws.map Input.word ++ .reset :: rest) :
      StepEffect s (resetBlock { s with inputs := rest })
  /-- The adapter took a step of its own. -/
  | adapter (ins : List Input) : StepEffect s { s with adapter := s.adapter.complete, inputs := ins }
  /-- The block waits; a `tick` may have passed. -/
  | stay (ins : List Input) (hp : s.port = .ready) : StepEffect s { s with inputs := ins }
  /-- The block went on inside a command. -/
  | advanced (ins : List Input) (t : State) (hp : s.port ≠ .ready) (h : AdvanceEffect { s with inputs := ins } t) :
      StepEffect s t

/-- Every next state of a step is one of the step effects. -/
theorem step_effect {s t : State} (h : step s = .next t) : StepEffect s t := by
  by_cases hp : s.port = .ready
  · rw [step_ready hp, stepReady] at h
    cases hd : decode (leadingWords s.inputs) with
    | ok i rest =>
      simp only [hd] at h
      rcases perform_cases i rest (afterWords s.inputs) s with ⟨l, -, -, h'⟩ | h' <;> rw [h'] at h
      · exact .began i l t hp h
      · exact .command i _ t hp h
    | badHeader w rest => simp only [hd] at h; injection h with h; subst h; exact .illegal w rest hp
    | badColour w rest => simp only [hd] at h; injection h with h; subst h; exact .illegal w rest hp
    | incomplete =>
      simp only [hd] at h
      injection h with h
      rcases idle_cases (leadingWords s.inputs) (afterWords s.inputs) s with
        ⟨rest, ht, h'⟩ | ⟨rest, -, h'⟩ | ⟨rest, -, h'⟩ | h' <;> rw [h'] at h <;> subst h
      · exact .reset (leadingWords s.inputs) rest (by rw [← ht]; exact (leadingWords_afterWords _).symm)
      · exact .adapter _
      · exact .stay _ hp
      · exact .stay s.inputs hp
  · rw [step_within hp] at h
    rcases stepWithin_cases s with ⟨rest, hi, h'⟩ | ⟨rest, -, h'⟩ | ⟨ins, -, h'⟩ <;> rw [h'] at h
    · injection h with h; subst h; exact .reset [] rest hi
    · injection h with h; subst h; exact .adapter rest
    · exact .advanced ins t hp (advance_effect h)

/-- After the end of a run (70_reset_and_hazards R173) its end state stands: until a reset, a step only takes an input that
is no word, and perhaps lets the adapter take its own step. -/
theorem ended_step {s t : State} (he : s.ended) (h : step s = .next t) :
    (∃ rest, s.inputs = .reset :: rest ∧ t = resetBlock { s with inputs := rest }) ∨
    (t.ended ∧ t = { s with adapter := t.adapter, inputs := t.inputs }) := by
  obtain ⟨hp, hw⟩ := he
  rw [step_ready hp, stepReady] at h
  match hi : s.inputs with
  | [] => simp only [hi, leadingWords, afterWords, decode, idle] at h; cases h; exact .inr ⟨⟨hp, hw⟩, rfl⟩
  | .reset :: rest => simp only [hi, leadingWords, afterWords, decode, idle] at h; cases h; exact .inl ⟨rest, rfl, rfl⟩
  | .complete :: rest =>
    simp only [hi, leadingWords, afterWords, decode, idle, List.map_nil, List.nil_append] at h
    cases h; rw [hi] at hw; exact .inr ⟨⟨hp, hw⟩, rfl⟩
  | .tick :: rest =>
    simp only [hi, leadingWords, afterWords, decode, idle, List.map_nil, List.nil_append] at h
    cases h; rw [hi] at hw; exact .inr ⟨⟨hp, hw⟩, rfl⟩
  | .word w :: rest => rw [hi] at hw; cases hw

end Sys2Proof.Machine
end

