-- ==== Sys2Proof/Tests/Slice0.lean ====
section
/-! SUPPORT. Tests: expected values are those of spec/95_test_vectors.md (V, P and S numbers) or worked out by hand from
the rule named.  Then one witness for every statement with hypotheses: a concrete case that meets them together. -/

namespace Sys2Proof.Tests

open Sys2Proof Sys2Proof.Machine

/-! ### Small states -/

/-- A bare Sequence Buffer of `n` black slots. -/
def coreOf (n : Nat) (o : ChannelOrder) : State := { State.reset with life := .core, num := n, ord := o }

/-- A facade over `n` black slots, its adapter an oracle with these coming answers. -/
def facadeOf (n : Nat) (o : ChannelOrder) (answers : List AdpAnswer) (completions : List Completion) : State :=
  { State.reset with life := .facade, num := n, ord := o, adapter := .oracle answers completions }

/-- A facade whose adapter is the reference adapter in the state `r`. -/
def facadeRef (n : Nat) (r : RefAdapter) (answers : List AdpAnswer) : State :=
  { State.reset with life := .facade, num := n, adapter := .reference r answers }

/-- The reference adapter initialised and configured for `n` slots. -/
def readyAdapter (n : Nat) : RefAdapter :=
  { RefAdapter.start with inited := true, configured := true, pattern := some ⟨3 * n, 800000, 50, 3, 6⟩ }

/-- One step with the words `ws` presented. -/
def run (s : State) (ws : List Word) : Option State := next? (step { s with inputs := ws.map Input.word })

/-- `n` steps with the inputs `l` presented. -/
def runSteps (n : Nat) (s : State) (l : List Input) : Option State := next? (steps n { s with inputs := l })

/-- What one step with the words `ws` adds to the outputs. -/
def out (s : State) (ws : List Word) : Option (List Event) := (run s ws).map (·.trace)

/-- The fault register after one step with the words `ws`. -/
def faultAfter (s : State) (ws : List Word) : Option (BitVec 3) := (run s ws).map (·.faultCause)

/-! ### WellFormed refuses -/

/-- R48: a packed colour word with bit 24 set. -/
theorem test_wf_setpxP : (Instr.setpxP 0 0x01000000).wellFormed = false := by decide
/-- R48: a struct colour word with its high byte set. -/
theorem test_wf_setpxC : (Instr.setpxC 0 0xFF102030).wellFormed = false := by decide
/-- R48: the top bit alone. -/
theorem test_wf_setpxmP : (Instr.setpxmP 0 0 1 0x80000000).wellFormed = false := by decide
/-- R48. -/
theorem test_wf_setpxmC : (Instr.setpxmC 0 0 1 0x01FFFFFF).wellFormed = false := by decide
/-- R89: all 32 bits of an alpha colour word are meaningful. -/
theorem test_wf_alpha : (Instr.setpxA 0 0xFFFFFFFF).wellFormed = true := by decide

/-! ### Decoding: words of spec/95, one for every command, and the illegal ones -/

/-- V5.1. -/
theorem test_decode_create : decode [0x01000002, 0x0000000A] = .ok (.create 2 10) [] := by decide
/-- V6.1. -/
theorem test_decode_setpxP : decode [0x02000000, 5, 0x00FF0000] = .ok (.setpxP 5 0x00FF0000) [] := by decide
/-- V6.7. -/
theorem test_decode_setpxC : decode [0x02000001, 1, 0x00445566] = .ok (.setpxC 1 0x00445566) [] := by decide
/-- V6.8. -/
theorem test_decode_setpxA : decode [0x02000002, 3, 0x7FAABBCC] = .ok (.setpxA 3 0x7FAABBCC) [] := by decide
/-- V7.1: `x`, `y`, `rowWidth`, colour, in that order. -/
theorem test_decode_setpxmP :
    decode [0x03000000, 1, 2, 4, 0x00ABCDEF] = .ok (.setpxmP 1 2 4 0x00ABCDEF) [] := by decide
/-- P2, command 2. -/
theorem test_decode_setpxmC :
    decode [0x03000001, 1, 2, 4, 0x00102030] = .ok (.setpxmC 1 2 4 0x00102030) [] := by decide
/-- V7.3. -/
theorem test_decode_setpxmA :
    decode [0x03000002, 3, 3, 4, 0xFF010203] = .ok (.setpxmA 3 3 4 0xFF010203) [] := by decide
/-- P3, commands 7 and 9. -/
theorem test_decode_setopt :
    decode [0x04000001] = .ok (.setopt true) [] ∧ decode [0x04000000] = .ok (.setopt false) [] := by decide
/-- P1, command 3, with a word behind it. -/
theorem test_decode_encode : decode [0x05000000, 9] = .ok .encode [9] := by decide
/-- V12.1: `numElements`, `dutyZero`, `dutyOne`, `frequency`, `resetDelay`, in that order. -/
theorem test_decode_init :
    decode [0x10000002, 2, 3, 6, 0x000C3500, 0x32] = .ok (.init 2 2 3 6 800000 50) [] := by decide
/-- V12.8. -/
theorem test_decode_start : decode [0x11000000] = .ok .start [] := by decide
/-- V12.9. -/
theorem test_decode_wait : decode [0x12000000] = .ok .wait [] := by decide
/-- V12.13. -/
theorem test_decode_cleanup : decode [0x13000000] = .ok .cleanup [] := by decide
/-- V10.1, V10.4, V10.6, V10.10: one word is consumed. -/
theorem test_decode_badHeader :
    decode [0, 7] = .badHeader 0 [7] ∧ decode [0x01000100, 7] = .badHeader 0x01000100 [7] ∧
    decode [0x02000003, 7] = .badHeader 0x02000003 [7] ∧ decode [0x12000080] = .badHeader 0x12000080 [] := by decide
/-- V10.13: the full length is consumed. -/
theorem test_decode_badColour :
    decode [0x02000000, 1, 0x01000000, 0x05000000] = .badColour 0x01000000 [0x05000000] := by decide
/-- V10.14. -/
theorem test_decode_incomplete : decode [0x01000002] = .incomplete := by decide
/-- R46, R47: the encoder's words for SETPXM.P, operand by operand. -/
theorem test_encode_setpxmP : encode (.setpxmP 1 2 4 0x00ABCDEF) = [0x03000000, 1, 2, 4, 0x00ABCDEF] := by decide
/-- V12.1 as one number: the header in the low bits. -/
theorem test_tableWord :
    decodeTableWord 192 0x00000032000C3500000000060000000300000002_10000002 = some (.init 2 2 3 6 800000 50) := by decide
/-- A row number of one word, its operand words zeros: SETPX.P 0, #000000. -/
theorem test_tableWord_short : decodeTableWord 32 0x02000000 = some (.setpxP 0 0) := by decide
/-- ENCODE placed by `withFetchWord` runs as the next step, and is refused in the reset state (V9.7). -/
theorem test_withFetchWord :
    (next? (step (State.reset.withFetchWord 32 0x05000000))).map (fun t => (t.trace, t.inputs)) =
      some ([.response (.err (.illegalState .empty))], []) := by decide

/-! ### The written form (30_encoding R55, R56) -/

/-- V7.9 and V6.8 as text. -/
theorem test_assemble_sets :
    assemble "SETPXM 10, 2, -4, #010203" = some [0x03000000, 10, 2, 0xFFFFFFFC, 0x00010203] ∧
    assemble "SETPX 3, rgba(0xAA,0xBB,0xCC,0x7F)" = some [0x02000002, 3, 0x7FAABBCC] := by decide
/-- V6.18: the alias. -/
theorem test_assemble_setled : assemble "SETLED 5, #FF0000" = some [0x02000000, 5, 0x00FF0000] := by decide
/-- V5.7 and V12.1 as text. -/
theorem test_assemble_constructors :
    assemble "CREATE 4, #7" = some [0x01000007, 4] ∧
    assemble "INIT 2, GRB, 3, 6, 800000, 50" = some [0x10000002, 2, 3, 6, 0x000C3500, 0x32] := by decide

/-! ### One step of each command -/

/-- V5.1. -/
theorem test_create :
    (run State.reset [0x01000002, 10]).map (fun t => (t.life, t.num, t.ord, t.faultCause, t.trace)) =
      some (.core, 10, .grb, 0#3, [.response .ok]) := by decide
/-- V5.8: `ord` is tested before `numElements`. -/
theorem test_create_order : out State.reset [0x01000006, 0xFFFFFFFF] = some [.response (.err (.configError 6))] := by decide
/-- V6.1. -/
theorem test_setpxP :
    (run (coreOf 10 .rgb) [0x02000000, 5, 0x00FF0000]).map (fun t => (t.slot 5, t.slot 4, t.slot 6)) =
      some (.packed 0xFF0000, .packed 0, .packed 0) := by decide
/-- V6.5: the index is signed. -/
theorem test_setpxP_negative :
    out (coreOf 10 .rgb) [0x02000000, 0xFFFFFFFF, 0x00010203] = some [.response (.err (.boundsViolation (-1)))] := by decide
/-- V6.7. -/
theorem test_setpxC :
    (run (coreOf 10 .rgb) [0x02000001, 1, 0x00445566]).map (·.slot 1) = some (.rgb 0x44 0x55 0x66) := by decide
/-- V6.14: the colour word is checked before `LIFE`. -/
theorem test_setpxC_reserved :
    out State.reset [0x02000001, 0, 0x01000000] = some [.response (.err (.illegalCommand 0x01000000))] := by decide
/-- V6.8. -/
theorem test_setpxA :
    (run (coreOf 10 .rgb) [0x02000002, 3, 0x7FAABBCC]).map (·.slot 3) = some (.rgba 0xAA 0xBB 0xCC 0x7F) := by decide
/-- V6.15 with an alpha colour: every index fails with `NUM = 0`. -/
theorem test_setpxA_empty :
    out (coreOf 0 .rgb) [0x02000002, 0, 0xFF010203] = some [.response (.err (.boundsViolation 0))] := by decide
/-- V7.1: `y * rowWidth + x`. -/
theorem test_setpxmP :
    (run (coreOf 16 .rgb) [0x03000000, 1, 2, 4, 0x00ABCDEF]).map (fun t => (t.slot 9, t.slots.length)) =
      some (.packed 0xABCDEF, 1) := by decide
/-- V7.10: no wrap of the index. -/
theorem test_setpxmP_exact :
    out (coreOf 16 .rgb) [0x03000000, 3, 65536, 65536, 0x00010203] =
      some [.response (.err (.boundsViolation 4294967299))] := by decide
/-- P2, command 2. -/
theorem test_setpxmC :
    (run (coreOf 16 .bgr) [0x03000001, 1, 2, 4, 0x00102030]).map (·.slot 9) = some (.rgb 0x10 0x20 0x30) := by decide
/-- V7.3. -/
theorem test_setpxmA :
    (run (coreOf 16 .rgb) [0x03000002, 3, 3, 4, 0xFF010203]).map (·.slot 15) = some (.rgba 1 2 3 0xFF) := by decide
/-- R94, P3 command 7. -/
theorem test_setopt : (run (coreOf 4 .grb) [0x04000001]).map (·.opt) = some true := by decide
/-- P3, command 6, the four slots as written there. -/
theorem test_encode :
    out { coreOf 4 .grb with slots := [(0, .packed 0x112233), (1, .rgb 0x44 0x55 0x66),
        (2, .rgba 0x77 0x88 0x99 0xFF), (3, .rgba 0xAA 0xBB 0xCC 0x7F)] } [0x05000000] =
      some [.frame [0x22, 0x11, 0x33, 0x55, 0x44, 0x66, 0x88, 0x77, 0x99, 0, 0, 0], .response .ok] := by decide
/-- P3, command 8: the flag touches the packed slot alone. -/
theorem test_encode_opt :
    out { coreOf 2 .grb with opt := true, slots := [(0, .packed 0x112233), (1, .rgb 0x44 0x55 0x66)] } [0x05000000] =
      some [.frame [0x11, 0x22, 0x33, 0x55, 0x44, 0x66], .response .ok] := by decide
/-- V12.1. -/
theorem test_init :
    (run State.reset [0x10000002, 2, 3, 6, 0x000C3500, 0x32]).map
        (fun t => (t.life, t.num, t.tZero, t.tFreq, t.trace)) =
      some (.facade, 2, 3, 800000,
        [.call .initialise, .call (.configurePattern ⟨6, 800000, 50, 3, 6⟩), .response .ok]) := by decide
/-- V12.4: a failing call keeps what is committed, and the second call is not made. -/
theorem test_init_fails :
    (run { State.reset with adapter := .oracle [.fail ⟨7⟩] [] } [0x10000002, 2, 3, 6, 0x000C3500, 0x32]).map
        (fun t => (t.life, t.num, t.tFreq, t.fault, t.trace)) =
      some (.facade, 2, 800000, some .adapterFailure,
        [.call .initialise, .response (.err (.adapterFailure ⟨7⟩))]) := by decide
/-- V12.8. -/
theorem test_start :
    out { facadeOf 2 .grb [.ok] [] with slots := [(0, .packed 0x112233)] } [0x11000000] =
      some [.call (.send [0x22, 0x11, 0x33, 0, 0, 0]), .response .ok] := by decide
/-- V12.9, R125 and V12.17: an answer, a failure, and a call the adapter never answers, which gives no response. -/
theorem test_wait :
    out (facadeOf 2 .grb [] [.answered .ok]) [0x12000000] = some [.call .awaitCompletion, .response .ok] ∧
    out (facadeOf 2 .grb [] [.answered (.fail ⟨4⟩)]) [0x12000000] =
      some [.call .awaitCompletion, .response (.err (.adapterFailure ⟨4⟩))] ∧
    out (facadeOf 2 .grb [] [.never]) [0x12000000] = some [.call .awaitCompletion] := by decide
/-- V12.13: still a facade, the buffer kept. -/
theorem test_cleanup :
    (run { facadeOf 2 .grb [.ok] [] with slots := [(0, .packed 0x112233)] } [0x13000000]).map
        (fun t => (t.life, t.num, t.slots, t.trace)) =
      some (.facade, 2, [(0, .packed 0x112233)], [.call .teardown, .response .ok]) := by decide
/-- R173: a run has ended at its last response, whatever the adapter has yet to do and whatever follows a reset; it has not
while a command word is to come or a WAIT has no answer (V10.14, V12.17). -/
theorem test_ended :
    State.ended { facadeRef 1 { readyAdapter 1 with inflight := some [0, 0, 0] } [] with
      inputs := [.complete, .tick, .reset, .word 0x05000000] } ∧
    ¬ State.ended { coreOf 1 .rgb with inputs := [.complete, .word 0x05000000] } ∧
    ¬ State.ended { coreOf 1 .rgb with inputs := [.word 0x01000002] } ∧
    ¬ State.ended { facadeOf 1 .rgb [] [] with port := .unanswered } := by decide
/-- V13.1: the first cause stays in `FAULT`. -/
theorem test_fault_sticky :
    faultAfter { coreOf 2 .rgb with fault := some .illegalState } [0x02000000, 2, 0] = some 4#3 := by decide
/-- V10.12: the word after an illegal header is a header again. -/
theorem test_illegal_then_next : (run (coreOf 4 .rgb) [0x02000003, 0x05000000]).map (·.inputs) = some [.word 0x05000000] := by
  decide
/-- V14.1. -/
theorem test_reset :
    (next? (step { coreOf 10 .grb with opt := true, slots := [(5, .packed 0xFF0000)], inputs := [.reset] })).map
        (fun t => (t.life, t.num, t.opt, t.slots)) =
      some (.empty, 0, false, []) := by decide
/-- V6.16: black written over a colour leaves the very same memory. -/
theorem test_memory_canonical : Memory.write (Memory.write [] 5 (.packed 0xFF0000)) 5 (.packed 0) = [] := by decide
/-- V4.4 and V4.1: alpha below 255 is black. -/
theorem test_alpha :
    wordOfSlot (.rgba 0x12 0x34 0x56 0x7F) .rgb false = 0 ∧
    wordOfSlot (.rgba 0x12 0x34 0x56 0xFF) .rgb false = 0x123456 := by decide
/-- R126: the adapter completes the frame it has in flight. -/
theorem test_adapter_complete :
    (RefAdapter.complete { readyAdapter 1 with inflight := some [1, 2, 3] }).log = [[1, 2, 3]] := by decide
/-- R126: `fail(sig)` stands only in place of `ok`, with no change of adapter state; a wrong order stays refused. -/
theorem test_adapter_fail :
    Adapter.call (.reference (readyAdapter 1) [.fail ⟨7⟩]) (.send [0, 0, 0]) = .fail ⟨7⟩ (.reference (readyAdapter 1) []) ∧
    Adapter.call (.reference { readyAdapter 1 with torn := true } [.fail ⟨7⟩]) .awaitCompletion = .refuse := by decide
/-- R105, R160: a reset after two of six bytes; no frame and no response. -/
theorem test_reset_inside_encode :
    (runSteps 3 (coreOf 2 .grb) [.word 0x05000000, .tick, .tick, .tick]).map (fun t => (t.scan, t.frame, t.trace)) =
      some (2, [0, 0], []) ∧
    (runSteps 4 (coreOf 2 .grb) [.word 0x05000000, .tick, .tick, .tick, .reset]).map (fun t => (t.life, t.scan, t.trace)) =
      some (.empty, 0, []) := by decide
/-- R160: a reset after the frame and before the response; the frame is not recalled. -/
theorem test_reset_after_frame :
    (runSteps 3 (coreOf 0 .grb) [.word 0x05000000, .tick, .tick, .reset]).map (fun t => (t.life, t.trace)) =
      some (.empty, [.frame []]) := by decide
/-- R21: inside START's call `scan` is still `3 * NUM`, and 0 after the response. -/
theorem test_start_scan :
    (next? (step { facadeRef 1 (readyAdapter 1) [] with
        port := .serializing .adapter, scan := 3, frame := [1, 2, 3] })).map (·.scan) = some 3 ∧
    (next? (step { facadeRef 1 (readyAdapter 1) [] with
        port := .calling (.send [1, 2, 3]) .ok, scan := 3, frame := [1, 2, 3] })).map (fun t => (t.scan, t.trace)) =
      some (0, [.response .ok]) := by decide
/-- R160: a reset inside START, its call made; the adapter keeps the frame, and no response comes. -/
theorem test_reset_inside_start :
    (runSteps 3 (facadeRef 0 (readyAdapter 0) []) [.word 0x11000000, .tick, .tick, .reset]).map
        (fun t => (t.life, t.trace, t.adapter)) =
      some (.empty, [.call (.send [])], .reference { readyAdapter 0 with inflight := some [] } []) := by decide
/-- R160, between the two calls of INIT (93 U18). -/
theorem test_reset_inside_init :
    (runSteps 2 State.reset [.word 0x10000002, .word 2, .word 3, .word 6, .word 800000, .word 50, .tick, .reset]).map
        (fun t => (t.life, t.num, t.tFreq, t.trace)) =
      some (.empty, 0, 0, [.call .initialise]) := by decide
/-- V12.15: after teardown the reference adapter refuses `send`. -/
theorem test_adapter_refuses :
    (readyAdapter 1).call (.send [0, 0, 0]) = .ok { readyAdapter 1 with inflight := some [0, 0, 0] } ∧
    RefAdapter.call { readyAdapter 1 with torn := true } (.send [0, 0, 0]) = .refuse := by decide

/-! ### Witnesses: the hypotheses of each statement hold together of something -/

theorem witness_DecodeOfEncode :
    (Instr.setpxP 5 0x00FFFFFF).wellFormed = true ∧ (Instr.setpxmC 1 2 4 0).wellFormed = true ∧
    (Instr.create 7 0xFFFFFFFF).wellFormed = true := by decide

theorem witness_EncodeOfDecode : decode [0x02000000, 5, 0x00FFFFFF, 7] = .ok (.setpxP 5 0x00FFFFFF) [7] := by decide

theorem witness_OpcodeRowsExclusive :
    ∃ r ∈ opcodeTable, r.selects 0x01000007 = true ∧ ∃ r' ∈ opcodeTable, r'.selects 0x10000000 = true ∧ r ≠ r' :=
  ⟨⟨.create, .c, 0x01000000#32, 0xFFFFFFF8#32⟩, by decide, by decide,
    ⟨.init, .i, 0x10000000#32, 0xFFFFFFF8#32⟩, by decide, by decide, by decide⟩

/-- Both sides of each bound: V10.6, V10.7, V10.4, V10.11 are illegal, their neighbours are not. -/
theorem witness_IllegalHeaderByFields :
    (illegalHeader 0x02000003 ∧ illegalHeader 0x02000004 ∧ illegalHeader 0x01000100 ∧ illegalHeader 0x05800000 ∧
      illegalHeader 0x04000002 ∧ illegalHeader 0x10000008 ∧ illegalHeader 0x14000000) ∧
    ¬ illegalHeader 0x02000002 ∧ ¬ illegalHeader 0x01000007 ∧ ¬ illegalHeader 0x04000001 ∧ ¬ illegalHeader 0x13000000 := by
  simp [illegalHeader]

theorem witness_LengthDecidedByHeader :
    decode [0x10000000, 1, 2, 3, 4] = .incomplete ∧ decode [0x10000000, 1, 2, 3, 4, 5, 6] = .ok (.init 0 1 2 3 4 5) [6] ∧
    decode [0x03000000, 0, 0, 1, 0x01000000, 9] = .badColour 0x01000000 [9] ∧
    decode [0x02000003, 1, 2] = .badHeader 0x02000003 [1, 2] := by decide

/-- Both ends of the range of a signed operand, the alias, and a line with a command. -/
theorem witness_WrittenLinesStandForTheirCommands :
    (-2147483648 ≤ (-2147483648 : Int) ∧ (-2147483648 : Int) ≤ 2147483647) ∧
    (-2147483648 ≤ (2147483647 : Int) ∧ (2147483647 : Int) ≤ 2147483647) ∧
    AsmLine.setled 5 ∈ [AsmLine.setpx 5, AsmLine.setled 5] ∧
    (AsmLine.setledm (-1) 1 4 (.rgba 1 2 3 255)).instr = some (.setpxmA 0xFFFFFFFF 1 4 0xFF010203) :=
  ⟨by decide, by decide, by simp, by decide⟩

theorem witness_TextAssemblesToOneCommand :
    assemble "SETLEDM 1, 2, 4, rgb(0x10, 0x20, 0x30)" = some [0x03000001, 1, 2, 4, 0x00102030] := by decide

theorem witness_PermuteIsBijective : permute .brg 0x12 0x34 0x56 = permute .brg 0x12 0x34 0x56 := rfl

/-- `n` at both ends of its range, the last legal order. -/
theorem witness_CreateMakesBlackBuffer :
    State.reset.life = .empty ∧ ChannelOrder.ofCode 5 = some .bgr ∧
    (0 ≤ (0 : Word).toInt ∧ (0 : Word).toInt ≤ State.reset.cfg.nMax.val) ∧
    0 ≤ (0x2AAAAAAA : Word).toInt ∧ (0x2AAAAAAA : Word).toInt ≤ State.reset.cfg.nMax.val := by decide

/-- An existing buffer; codes 6 and 7; counts -1 and `N_MAX + 1`. -/
theorem witness_ConstructorRefusals :
    (coreOf 1 .rgb).life ≠ .empty ∧ State.reset.life = .empty ∧ 5 < (6 : BitVec 3).toNat ∧ 5 < (7 : BitVec 3).toNat ∧
    (5 : BitVec 3).toNat ≤ 5 ∧ (0xFFFFFFFF : Word).toInt < 0 ∧
    (State.reset.cfg.nMax.val : Int) < (0x2AAAAAAB : Word).toInt := by decide

/-- Indices 0 and `NUM - 1`; colour words with and without a high byte. -/
theorem witness_SetpxReplacesOneSlot :
    (coreOf 10 .rgb).slots.wf ∧ (coreOf 10 .rgb).life ≠ .empty ∧ 0 ≤ (0 : Word).toInt ∧ 0 ≤ (9 : Word).toInt ∧
    (9 : Word).toInt < (coreOf 10 .rgb).num ∧ (0x00FFFFFF : Word).extractLsb' 24 8 = 0#8 ∧
    (0x7FAABBCC : Word).extractLsb' 24 8 ≠ 0#8 := by decide

/-- V7.11 (index 3 from a negative `x`) and index 15 of 16. -/
theorem witness_SetpxmReplacesSlotAtMatrixIndex :
    (coreOf 16 .rgb).slots.wf ∧ (coreOf 16 .rgb).life ≠ .empty ∧
    (32768 : Word).toInt * (65536 : Word).toInt + (0x80000003 : Word).toInt = 3 ∧
    (3 : Word).toInt * (4 : Word).toInt + (3 : Word).toInt = 15 ∧ (15 : Int) < (coreOf 16 .rgb).num ∧
    (0 : Word).toInt * (4 : Word).toInt + (0 : Word).toInt = 0 := by decide

/-- A reserved bit; no buffer; the indices just outside the buffer. -/
theorem witness_SetRefusals :
    pixelIndex (.setpxmC 0 4 4 0x01000000) = some 16 ∧ (Instr.setpxmC 0 4 4 0x01000000).wellFormed = false ∧
    pixelIndex (.setpxA 0xFFFFFFFF 0) = some (-1) ∧ (Instr.setpxA 0xFFFFFFFF 0).wellFormed = true ∧
    State.reset.life = .empty ∧ (coreOf 16 .rgb).life ≠ .empty ∧ ((coreOf 16 .rgb).num : Int) ≤ 16 := by decide

/-- V7.10, V7.11, and both ends of the range of the second clause. -/
theorem witness_MatrixSetIsIndexedSet :
    matrixIndex 3 65536 65536 = 4294967299 ∧ matrixIndex 0x80000003 32768 65536 = 3 ∧
    (0 : Word).toInt * (0 : Word).toInt + (0 : Word).toInt = 0 ∧
    (0 : Word).toInt * (4 : Word).toInt + (0x7FFFFFFF : Word).toInt = 2 ^ 31 - 1 := by decide

theorem witness_SetTouchesOneSlotOnly :
    pixelIndex (.setpxP 9 1) = some 9 ∧ ∃ t, exec (.setpxP 9 1) (coreOf 10 .rgb) = .next t ∧
      t.trace = (coreOf 10 .rgb).trace ++ [.response .ok] :=
  ⟨by decide, _, rfl, by decide⟩

theorem witness_SlotLayoutKeepsColourWord : (0x00123456 : Word).extractLsb' 24 8 = 0#8 := by decide

theorem witness_SetoptWritesFlag : (coreOf 0 .rgb).life ≠ .empty ∧ State.reset.life = .empty := by decide

theorem witness_EncodeDeliversFrame : (coreOf 2 .grb).life ≠ .empty ∧ 5 < 3 * (coreOf 2 .grb).num := by decide

theorem witness_EncodeOfNoneAndOfEmpty :
    State.reset.life = .empty ∧ (coreOf 0 .rgb).life ≠ .empty ∧ (coreOf 0 .rgb).num = 0 := by decide

theorem witness_FreshBufferEncodesToZeros :
    State.reset.life = .empty ∧ ∃ t, exec (.create 2 3) State.reset = .next t ∧ t.life ≠ .empty ∧
      ({ t with opt := true } : State).life ≠ .empty ∧ ({ t with opt := true } : State).num = t.num ∧
      ({ t with opt := true } : State).slots = t.slots :=
  ⟨by decide, _, rfl, by decide, by decide, by decide, by decide⟩

theorem witness_FramesDifferInOneSlotOnly :
    pixelIndex (.setpxC 1 0x00445566) = some 1 ∧ (coreOf 2 .rgb).life ≠ .empty ∧
    ∃ s₁ s₂ s₃, exec .encode (coreOf 2 .rgb) = .next s₁ ∧ exec (.setpxC 1 0x00445566) s₁ = .next s₂ ∧
      s₂.trace = s₁.trace ++ [.response .ok] ∧ exec .encode s₂ = .next s₃ :=
  ⟨by decide, by decide, _, _, _, rfl, rfl, by decide, rfl⟩

theorem witness_MicroStepsDeliverTheFrame :
    (coreOf 2 .grb).life ≠ .empty ∧ 0 ≤ 3 * (coreOf 2 .grb).num ∧ 6 ≤ 3 * (coreOf 2 .grb).num := by decide

/-- The reference adapter answers both calls of an INIT `ok`; so does an oracle with two answers. -/
theorem witness_InitConfiguresAdapter :
    State.reset.life = .empty ∧ ChannelOrder.ofCode 2 = some .grb ∧ 0 ≤ (2 : Word).toInt ∧
    (2 : Word).toInt ≤ State.reset.cfg.nMax.val ∧
    (∃ a₁ a₂, State.reset.adapter.call .initialise = .ok a₁ ∧
      a₁.call (.configurePattern ⟨3 * (2 : Word).toInt.toNat, 800000, 50, 3, 6⟩) = .ok a₂) ∧
    ∃ a₁ a₂, Adapter.call (.oracle [.ok, .ok] []) .initialise = .ok a₁ ∧
      a₁.call (.configurePattern ⟨3 * (2 : Word).toInt.toNat, 800000, 50, 3, 6⟩) = .ok a₂ :=
  ⟨by decide, by decide, by decide, by decide, ⟨_, _, rfl, rfl⟩, _, _, rfl, rfl⟩

/-- V12.4 and V12.5. -/
theorem witness_InitKeepsStateOnAdapterFailure :
    State.reset.life = .empty ∧ ChannelOrder.ofCode 2 = some .grb ∧ 0 ≤ (2 : Word).toInt ∧
    (2 : Word).toInt ≤ State.reset.cfg.nMax.val ∧
    (∃ a₁, Adapter.call (.oracle [.fail ⟨7⟩] []) .initialise = .fail ⟨7⟩ a₁) ∧
    ∃ a₁ a₂, Adapter.call (.oracle [.ok, .fail ⟨7⟩] []) .initialise = .ok a₁ ∧
      a₁.call (.configurePattern ⟨3 * (2 : Word).toInt.toNat, 800000, 50, 3, 6⟩) = .fail ⟨7⟩ a₂ :=
  ⟨by decide, by decide, by decide, by decide, ⟨_, rfl⟩, _, _, rfl, rfl⟩

theorem witness_StartSendsTheFrame :
    (facadeOf 1 .rgb [.ok] []).life = .facade ∧ ([0, 0, 0] : Frame).length = 3 * (facadeOf 1 .rgb [.ok] []).num ∧
    (∀ k < 3 * (facadeOf 1 .rgb [.ok] []).num, ([0, 0, 0] : Frame)[k]? =
      some ((wordOfSlot ((facadeOf 1 .rgb [.ok] []).slot (k / 3)) (facadeOf 1 .rgb [.ok] []).ord (facadeOf 1 .rgb [.ok] []).opt >>>
        (8 * (2 - k % 3))).setWidth 8)) ∧
    (∃ a, (facadeOf 1 .rgb [.ok] []).adapter.call (.send [0, 0, 0]) = .ok a) ∧
    ∃ a, (facadeOf 1 .rgb [.fail ⟨7⟩] []).adapter.call (.send [0, 0, 0]) = .fail ⟨7⟩ a :=
  ⟨by decide, by decide, by decide, ⟨_, rfl⟩, _, rfl⟩

theorem witness_WaitAndCleanupForward :
    (facadeOf 1 .rgb [.ok] []).life = .facade ∧
    (∃ a, (facadeOf 1 .rgb [] [.answered .ok]).adapter.call .awaitCompletion = .ok a) ∧
    (∃ a, (facadeOf 1 .rgb [.ok] []).adapter.call .teardown = .ok a) ∧
    (∃ a, (facadeOf 1 .rgb [] [.answered (.fail ⟨7⟩)]).adapter.call .awaitCompletion = .fail ⟨7⟩ a) ∧
    ∃ a, (facadeOf 1 .rgb [.fail ⟨7⟩] []).adapter.call .teardown = .fail ⟨7⟩ a :=
  ⟨by decide, ⟨_, rfl⟩, ⟨_, rfl⟩, ⟨_, rfl⟩, _, rfl⟩

/-- V12.17, with a word, nothing and a reset behind it. -/
theorem witness_UnansweredCallWaitsForReset :
    (facadeOf 1 .rgb [] [.never]).life = .facade ∧
    (∃ a, (facadeOf 1 .rgb [] [.never]).adapter.call .awaitCompletion = .unanswered a) ∧
    (∃ t, exec .wait { facadeOf 1 .rgb [] [.never] with inputs := [.word 0x05000000] } = .next t ∧
      t.inputs = .word 0x05000000 :: []) ∧
    (∃ t, exec .wait (facadeOf 1 .rgb [] [.never]) = .next t ∧ t.inputs = []) ∧
    ∃ t, exec .wait { facadeOf 1 .rgb [] [.never] with inputs := [.reset] } = .next t ∧ t.inputs = .reset :: [] :=
  ⟨by decide, ⟨_, rfl⟩, ⟨_, rfl, rfl⟩, ⟨_, rfl, rfl⟩, _, rfl, rfl⟩

/-- A frame in flight; no answer listed, an `ok`, a failure; nothing presented, and a word. -/
theorem witness_ReferenceAdapterHoldsWait :
    (∀ answers ∈ [[], [AdpAnswer.ok], [AdpAnswer.fail ⟨7⟩]],
      (facadeRef 1 { readyAdapter 1 with inflight := some [0, 0, 0] } answers).life = .facade ∧
      (facadeRef 1 { readyAdapter 1 with inflight := some [0, 0, 0] } answers).adapter =
        .reference { readyAdapter 1 with inflight := some [0, 0, 0] } answers ∧
      (facadeRef 1 { readyAdapter 1 with inflight := some [0, 0, 0] } answers).inputs = []) ∧
    (readyAdapter 1).torn = false ∧
    ({ facadeRef 1 (readyAdapter 1) [] with inputs := [.word 7] } : State).inputs = .word 7 :: [] := by decide

/-- A facade, an empty block; a call that is accepted and one that is refused, for each of the four. -/
theorem witness_ReferenceAdapterRefusals :
    (facadeRef 1 (readyAdapter 1) [.fail ⟨7⟩]).life = .facade ∧
    (facadeRef 1 (readyAdapter 1) [.fail ⟨7⟩]).adapter = .reference (readyAdapter 1) [.fail ⟨7⟩] ∧
    (readyAdapter 1).pattern.map Pattern.byteCount = some (3 * (facadeRef 1 (readyAdapter 1) []).num) ∧
    (readyAdapter 1).pattern.map Pattern.byteCount ≠ some (3 * (facadeRef 2 (readyAdapter 1) []).num) ∧
    ({ readyAdapter 1 with torn := true } : RefAdapter).torn = true ∧
    ({ readyAdapter 1 with inflight := some [] } : RefAdapter).inflight ≠ none ∧
    State.reset.life = .empty ∧ State.reset.adapter = .reference RefAdapter.start [] ∧
    ChannelOrder.ofCode 0 = some .rgb ∧ 0 ≤ (0 : Word).toInt ∧ (0 : Word).toInt ≤ State.reset.cfg.nMax.val := by decide

/-- Between commands, inside an incomplete command, inside an ENCODE; a frame in flight and none. -/
theorem witness_AdapterStepChangesOnlyAdapter :
    (State.reset.port = .ready ∧ decode [] = .incomplete ∧
      ({ State.reset with inputs := [.complete] } : State).inputs = ([] : List Word).map Input.word ++ .complete :: []) ∧
    (decode [0x01000002] = .incomplete ∧
      ({ State.reset with inputs := [.word 0x01000002, .complete, .word 5] } : State).inputs =
        [0x01000002].map Input.word ++ .complete :: [.word 5]) ∧
    (({ coreOf 1 .rgb with port := .serializing .out, inputs := [.complete] } : State).port ≠ .ready ∧
      ({ coreOf 1 .rgb with port := .serializing .out, inputs := [.complete] } : State).inputs = .complete :: []) ∧
    ({ readyAdapter 1 with inflight := some [1, 2, 3] } : RefAdapter).inflight = some [1, 2, 3] ∧
    (readyAdapter 1).inflight = none := by decide

/-- V11.6 and V11.9 are not allowed; SETOPT in CORE is. -/
theorem witness_LifecycleTable :
    Instr.start.wellFormed = true ∧ ¬ lifeAllows .start (coreOf 1 .rgb).life ∧
    ¬ lifeAllows (.create 0 1) (facadeOf 1 .rgb [] []).life ∧ lifeAllows (.setopt true) (coreOf 1 .rgb).life ∧
    ∃ t, exec (.setopt true) (coreOf 1 .rgb) = .next t :=
  ⟨by decide, by simp [lifeAllows, coreOf], by simp [lifeAllows, facadeOf], by simp [lifeAllows, coreOf], _, rfl⟩

/-- An error without an adapter call, and one with. -/
theorem witness_ErrorChangesOnlyFault :
    (∃ t, exec (.setpxP 10 1) (coreOf 10 .rgb) = .next t ∧
      t.trace = (coreOf 10 .rgb).trace ++ [] ++ [.response (.err (.boundsViolation 10))]) ∧
    (coreOf 10 .rgb).life ≠ .empty ∧
    ∃ t, exec .wait (facadeOf 1 .rgb [] [.answered (.fail ⟨7⟩)]) = .next t ∧
      t.trace = (facadeOf 1 .rgb [] [.answered (.fail ⟨7⟩)]).trace ++ [.call .awaitCompletion] ++
        [.response (.err (.adapterFailure ⟨7⟩))] :=
  ⟨⟨_, rfl, by decide⟩, by decide, _, rfl, by decide⟩

/-- A raise, an `OK` and a reset that clears. -/
theorem witness_FaultIsSticky :
    (∃ t, step { coreOf 4 .rgb with inputs := [.word 0] } = .next t ∧
      t.trace = (coreOf 4 .rgb).trace ++ [] ++ [.response (.err (.illegalCommand 0))]) ∧
    (∃ t, step { coreOf 4 .rgb with inputs := [.word 0x04000001] } = .next t ∧
      t.trace = (coreOf 4 .rgb).trace ++ [] ++ [.response .ok]) ∧
    ∃ t, step { coreOf 4 .rgb with fault := some .configError, inputs := [.reset, .word 7] } = .next t ∧
      t.fault ≠ some .configError ∧ t.inputs = [.word 7] :=
  ⟨⟨_, rfl, by decide⟩, ⟨_, rfl, by decide⟩, _, rfl, by decide, by decide⟩

/-- ENCODE answers; a WAIT whose call stays unanswered does not. -/
theorem witness_ExactlyOneResponse :
    (coreOf 2 .rgb).port = .ready ∧ (∃ t, exec .encode (coreOf 2 .rgb) = .next t ∧ t.port = .ready) ∧
    ∃ t, exec .wait (facadeOf 2 .rgb [] [.never]) = .next t ∧ t.port ≠ .ready :=
  ⟨by decide, ⟨_, rfl, by decide⟩, _, rfl, by decide⟩

/-- A START, and a WAIT of each kind. -/
theorem witness_EveryCommandButWaitResponds :
    (facadeOf 2 .rgb [] []).port = .ready ∧ (∃ t, exec .start (facadeOf 2 .rgb [.fail ⟨7⟩] []) = .next t) ∧
    (facadeOf 2 .rgb [] [.never]).life = .facade ∧ (∃ t, exec .wait (facadeOf 2 .rgb [] [.never]) = .next t) ∧
    (∃ t, exec .wait (facadeOf 2 .rgb [] [.answered .ok]) = .next t) ∧
    ∃ t, exec .wait (facadeRef 1 { readyAdapter 1 with inflight := some [0, 0, 0] } []) = .next t :=
  ⟨by decide, ⟨_, rfl⟩, by decide, ⟨_, rfl⟩, ⟨_, rfl⟩, _, rfl⟩

/-- Words, a reset and nothing behind a command; and a tick. -/
theorem witness_StepRunsDecodedCommand :
    State.reset.port = .ready ∧
    decode (leadingWords [.word 0x01000002, .word 10, .word 0x05000000, .reset]) = .ok (.create 2 10) [0x05000000] ∧
    (decode (leadingWords [.word 0x05000000, .reset]) = .ok .encode [] ∧
      ∀ l, afterWords [.word 0x05000000, .reset] ≠ .tick :: l) ∧
    decode (leadingWords [.word 0x05000000, .tick]) = .ok .encode [] ∧
    afterWords [.word 0x05000000, .tick] = .tick :: [] :=
  ⟨by decide, by decide, ⟨by decide, by simp [afterWords]⟩, by decide, by decide⟩

theorem witness_PresentedCommandRuns :
    State.reset.port = .ready ∧ (Instr.setpxP 1 0x00FFFFFF).wellFormed = true ∧
    (([.word 0x02000000, .word 1, .word 0x00FFFFFF, .reset] : List Input) =
      (encode (.setpxP 1 0x00FFFFFF)).map Input.word ++ [.reset] ∧ ∀ l, [Input.reset] ≠ .tick :: l) ∧
    ([.word 0x02000000, .word 1, .word 0x00FFFFFF, .tick, .reset] : List Input) =
      (encode (.setpxP 1 0x00FFFFFF)).map Input.word ++ .tick :: [.reset] :=
  ⟨by decide, by decide, ⟨by decide, by simp⟩, by decide⟩

/-- ENCODE, and an INIT; one that is refused in one step: START of a torn-down reference adapter. -/
theorem witness_PiecesReachTheCommand :
    (coreOf 2 .grb).port = .ready ∧ (coreOf 2 .grb).frame = [] ∧ (coreOf 2 .grb).scan = 0 ∧
    Instr.encode.wellFormed = true ∧
    ({ coreOf 2 .grb with inputs := [.word 0x05000000, .tick] } : State).inputs =
      (encode .encode).map Input.word ++ .tick :: [] ∧
    (∃ t, exec .encode { coreOf 2 .grb with inputs := [] } = .next t) ∧
    (∃ t, exec (.init 0 1 2 3 4 5) { State.reset with inputs := [.word 0x05000000] } = .next t) ∧
    ∃ r, exec .start { facadeRef 1 { readyAdapter 1 with torn := true } [] with inputs := [] } = .refused r :=
  ⟨by decide, by decide, by decide, by decide, by decide, ⟨_, rfl⟩, ⟨_, rfl⟩, _, rfl⟩

/-- ENCODE and START: no byte yet, every byte, the frame out.  INIT: after the first call and after the second. -/
theorem witness_ResetInsideACommand :
    (coreOf 1 .grb).port = .ready ∧ (coreOf 1 .grb).life ≠ .empty ∧
    (∀ k ∈ [0, 3 * (coreOf 1 .grb).num, 3 * (coreOf 1 .grb).num + 1],
      ({ coreOf 1 .grb with
          inputs := .word 0x05000000 :: .tick :: (List.replicate k Input.tick ++ .reset :: []) } : State).inputs =
        .word 0x05000000#32 :: .tick :: (List.replicate k Input.tick ++ .reset :: [])) ∧
    (facadeRef 1 (readyAdapter 1) []).port = .ready ∧ (facadeRef 1 (readyAdapter 1) []).life = .facade ∧
    (∀ k ∈ [0, 3 * (facadeRef 1 (readyAdapter 1) []).num, 3 * (facadeRef 1 (readyAdapter 1) []).num + 1],
      ({ facadeRef 1 (readyAdapter 1) [] with
          inputs := .word 0x11000000 :: .tick :: (List.replicate k Input.tick ++ .reset :: []) } : State).inputs =
        .word 0x11000000#32 :: .tick :: (List.replicate k Input.tick ++ .reset :: [])) ∧
    (∃ a, (facadeRef 1 (readyAdapter 1) []).adapter.call (.send (facadeRef 1 (readyAdapter 1) []).encodedFrame) = .ok a) ∧
    State.reset.life = .empty ∧ ChannelOrder.ofCode 2 = some .grb ∧ 0 ≤ (2 : Word).toInt ∧
    (2 : Word).toInt ≤ State.reset.cfg.nMax.val ∧
    (∃ a₁ a₂, State.reset.adapter.call .initialise = .ok a₁ ∧
      a₁.call (.configurePattern ⟨3 * (2 : Word).toInt.toNat, 800000, 50, 3, 6⟩) = .ok a₂) ∧
    ([.word 0x10000002, .word 2, .word 3, .word 6, .word 800000, .word 50, .tick, .reset] : List Input) =
      (encode (.init 2 2 3 6 800000 50)).map Input.word ++ .tick :: .reset :: [] ∧
    ([.word 0x10000002, .word 2, .word 3, .word 6, .word 800000, .word 50, .tick, .tick, .reset] : List Input) =
      (encode (.init 2 2 3 6 800000 50)).map Input.word ++ .tick :: .tick :: .reset :: [] :=
  ⟨by decide, by decide, by decide, by decide, by decide, by decide, ⟨_, rfl⟩, by decide, by decide, by decide, by decide,
    ⟨_, _, rfl, rfl⟩, by decide, by decide⟩

theorem witness_IllegalHeaderAnswersError :
    (coreOf 4 .rgb).port = .ready ∧
    ({ coreOf 4 .rgb with inputs := [.word 0x02000003, .word 0x05000000] } : State).inputs =
      .word 0x02000003 :: [.word 0x05000000] ∧ illegalHeader 0x02000003 :=
  ⟨by decide, by decide, by simp [illegalHeader]⟩

/-- V10.13, and a matrix form. -/
theorem witness_IllegalColourAnswersError :
    (coreOf 4 .rgb).port = .ready ∧ (0x01000000 : Word).extractLsb' 24 8 ≠ 0#8 ∧
    ([.word 0x02000000, .word 1, .word 0x01000000, .word 0x05000000] : List Input) =
      (encode (.setpxP 1 0x01000000)).map Input.word ++ [.word 0x05000000] ∧
    ([.word 0x03000001, .word 1, .word 0, .word 4, .word 0x01000000] : List Input) =
      (encode (.setpxmC 1 0 4 0x01000000)).map Input.word ++ [] := by decide

/-- V10.14, and nothing presented at all. -/
theorem witness_IncompleteCommandWaits :
    State.reset.port = .ready ∧ decode [0x01000002] = .incomplete ∧ State.reset.inputs = ([] : List Word).map Input.word ∧
    decode [] = .incomplete := by decide

/-- A reset inside an incomplete command, one inside an unanswered WAIT, and one inside an ENCODE. -/
theorem witness_ResetRestoresRegisters :
    (([.word 0x01000002, .reset] : List Input) = [0x01000002].map Input.word ++ .reset :: [] ∧
      (coreOf 1 .rgb).port = .ready ∧ decode [0x01000002] = .incomplete) ∧
    ∀ p ∈ [PortState.unanswered, .serializing .out, .delivered],
      ({ facadeOf 1 .rgb [] [] with port := p, inputs := [.reset] } : State).inputs =
        ([] : List Word).map Input.word ++ .reset :: [] ∧
      ({ facadeOf 1 .rgb [] [] with port := p, inputs := [.reset] } : State).port ≠ .ready := by decide

/-- Between commands, inside an ENCODE with two bytes of six, and inside START's call. -/
theorem witness_StepKeepsInvariant :
    (State.Inv { coreOf 2 .grb with slots := [(1, .packed 0x010203)], inputs := [.word 0x05000000] } ∧
      ∃ t, step { coreOf 2 .grb with slots := [(1, .packed 0x010203)], inputs := [.word 0x05000000] } = .next t) ∧
    (State.Inv { coreOf 2 .grb with port := .serializing .out, scan := 2, frame := [0, 0] } ∧
      ∃ t, step { coreOf 2 .grb with port := .serializing .out, scan := 2, frame := [0, 0] } = .next t) ∧
    State.Inv { facadeRef 1 (readyAdapter 1) [] with port := .calling (.send [0, 0, 0]) .ok, scan := 3, frame := [0, 0, 0] } ∧
    ∃ t, step { facadeRef 1 (readyAdapter 1) [] with port := .calling (.send [0, 0, 0]) .ok, scan := 3, frame := [0, 0, 0] } =
      .next t := by
  refine ⟨⟨?_, _, rfl⟩, ⟨?_, _, rfl⟩, ?_, _, rfl⟩ <;> constructor <;> first | decide | simp [coreOf, facadeRef, State.reset]

/-- LIFE stays, moves forward, and is taken back by a reset. -/
theorem witness_LifeMovesForwardUntilReset :
    (∃ t, step (coreOf 1 .rgb) = .next t ∧ t.life = .core) ∧
    (∃ t, step { State.reset with inputs := [.word 0x01000000, .word 1] } = .next t ∧ t.life = .core) ∧
    ∃ t, step { coreOf 1 .rgb with inputs := [.reset, .word 7] } = .next t ∧ t.life = .empty ∧ t.inputs = [.word 7] :=
  ⟨⟨_, rfl, by decide⟩, ⟨_, rfl, by decide⟩, _, rfl, by decide, by decide⟩

theorem witness_WritersOfEachRegister :
    (∃ t, exec .encode (coreOf 1 .rgb) = .next t) ∧ (coreOf 1 .rgb).life ≠ .empty ∧
    pixelIndex .encode = none ∧ (∀ b, Instr.encode ≠ .setopt b) ∧ (∀ ord n, Instr.encode ≠ .create ord n) ∧
    ∀ ord n dz d1 f rd, Instr.encode ≠ .init ord n dz d1 f rd :=
  ⟨⟨_, rfl⟩, by decide, by decide, by simp, by simp, by simp⟩

theorem witness_OutputsAreNeverRecalled :
    ∃ t, step { coreOf 1 .rgb with trace := [.frame [1]], inputs := [.reset] } = .next t ∧ t.trace = [.frame [1]] :=
  ⟨_, rfl, by decide⟩

end Sys2Proof.Tests
end

section
/-! PROOFS. What one command puts on the block's outputs, command by command (00_scope R7). -/

namespace Sys2Proof.Machine

/-! ### The shared checks, read from a next state -/

theorem require_next {c : Prop} [Decidable c] {e : Err} {s t : State} {k : Out} (h : require c e s k = .next t) :
    t = raise e s ∨ c ∧ k = .next t := by
  rcases require_cases c e s k with ⟨hc, h'⟩ | ⟨-, h'⟩ <;> rw [h'] at h
  · exact .inr ⟨hc, h⟩
  · injection h with h; exact .inl h.symm

theorem withConstructor_next {ord : BitVec 3} {n : Int} {s t : State} {k : ChannelOrder → Nat → Out}
    (h : withConstructor ord n s k = .next t) :
    (∃ e, t = raise e s) ∨ ∃ o, s.life = .empty ∧ k o n.toNat = .next t := by
  rcases withConstructor_cases ord n s k with ⟨e, -, h'⟩ | ⟨o, hl, -, -, -, h'⟩ <;> rw [h'] at h
  · injection h with h; exact .inl ⟨e, h.symm⟩
  · exact .inr ⟨o, hl, h⟩

/-! ### The projections of a trace of calls -/

@[simp] theorem responses_map_call (cs : List AdpCall) : responses (cs.map Event.call) = [] := by
  simp [responses, List.filterMap_map]

@[simp] theorem frames_map_call (cs : List AdpCall) : frames (cs.map Event.call) = [] := by
  simp [frames, List.filterMap_map]

/-! ### What a command emits -/

/-- The commands that reach the adapter: INIT where there is no buffer yet, and START, WAIT and CLEANUP of a facade
(43_facade_adapter R111 to R114). -/
def MayCall (i : Instr) (s : State) : Prop :=
  (s.life = .empty ∧ ∃ ord n dz d1 f rd, i = .init ord n dz d1 f rd) ∨
    (s.life = .facade ∧ (i = .start ∨ i = .wait ∨ i = .cleanup))

/-- What the command `i` emits on its way from `s` to `t`, and whether it is over then. -/
inductive Emission (i : Instr) (s t : State) : Prop
  /-- A response alone. -/
  | answered (r : Response) (hp : t.port = s.port) (ht : t.trace = s.trace ++ [.response r])
  /-- ENCODE's frame and its response. -/
  | framed (r : Response) (hi : i = .encode) (hp : t.port = s.port)
      (ht : t.trace = s.trace ++ [.frame s.encodedFrame] ++ [.response r])
  /-- Adapter calls and then a response. -/
  | called (cs : List AdpCall) (r : Response) (hi : MayCall i s) (hp : t.port = s.port)
      (ht : t.trace = s.trace ++ cs.map Event.call ++ [.response r])
  /-- The call of a WAIT that has no answer yet. -/
  | waiting (hi : i = .wait) (hl : s.life = .facade) (hp : t.port ≠ .ready)
      (ht : t.trace = s.trace ++ [.call .awaitCompletion])

theorem emission_raise (i : Instr) (e : Err) (s : State) : Emission i s (raise e s) :=
  .answered (.err e) rfl rfl

theorem setPixel_emission (i : Instr) {index : Int} {c : PixelColor} {s t : State} (h : setPixel index c s = .next t) :
    Emission i s t := by
  rcases setPixel_cases index c s with ⟨e, -, h'⟩ | ⟨-, -, -, h'⟩ <;> rw [h'] at h <;> injection h with h <;> subst h
  · exact emission_raise i e s
  · exact .answered .ok rfl rfl

theorem colourSet_emission (i : Instr) {cw : Word} {index : Int} {c : PixelColor} {s t : State}
    (h : requireColour cw s (setPixel index c s) = .next t) : Emission i s t := by
  rcases require_next h with rfl | ⟨-, h⟩
  · exact emission_raise i _ s
  · exact setPixel_emission i h

/-- A call sequence that ends between commands has been answered. -/
theorem CallEffect.responded {b t : State} (h : CallEffect b t) (ht : t.port = .ready) :
    ∃ (cs : List AdpCall) (r : Response), t.trace = b.trace ++ cs.map Event.call ++ [.response r] := by
  obtain ⟨cs, ⟨htr, -⟩ | ⟨sig, htr, -⟩ | ⟨-, -, -, hp | ⟨hp, -⟩⟩⟩ := h.emitted
  · exact ⟨cs, _, htr⟩
  · exact ⟨cs, _, htr⟩
  · rw [hp] at ht; cases ht
  · rw [hp] at ht; cases ht

/-- Answered calls of a command that may make them; `b` is the state they start from, which has emitted nothing yet. -/
theorem emission_of_calls {i : Instr} {s b t : State} (hs : s.port = .ready) (hi : MayCall i s)
    (h : CallEffect b t) (htr : b.trace = s.trace) (hp : t.port = s.port) : Emission i s t := by
  obtain ⟨cs, r, ht⟩ := h.responded (hp.trans hs)
  exact .called cs r hi hp (htr ▸ ht)

theorem execCreate_emission {ord : BitVec 3} {n : Word} {s t : State} (h : execCreate ord n s = .next t) :
    Emission (.create ord n) s t := by
  rcases withConstructor_next h with ⟨e, rfl⟩ | ⟨o, -, h⟩
  · exact emission_raise _ e s
  · injection h with h; subst h; exact .answered .ok rfl rfl

theorem execInit_emission {ord : BitVec 3} {n dz d1 f rd : Word} {s t : State} (hs : s.port = .ready)
    (h : execInit ord n dz d1 f rd s = .next t) : Emission (.init ord n dz d1 f rd) s t := by
  rcases withConstructor_next h with ⟨e, rfl⟩ | ⟨o, hl, h⟩
  · exact emission_raise _ e s
  · obtain ⟨he, hp⟩ := initCalls_effect h
    exact emission_of_calls hs (.inl ⟨hl, ord, n, dz, d1, f, rd, rfl⟩) he rfl hp

theorem execStart_emission {s t : State} (hs : s.port = .ready) (h : execStart s = .next t) : Emission .start s t := by
  rcases require_next h with rfl | ⟨hl, h⟩
  · exact emission_raise _ _ s
  · have hp := forward_answered (by simp) h
    exact emission_of_calls hs (.inr ⟨hl, .inl rfl⟩) (forward_effect h) rfl hp

theorem execCleanup_emission {s t : State} (hs : s.port = .ready) (h : execCleanup s = .next t) :
    Emission .cleanup s t := by
  rcases require_next h with rfl | ⟨hl, h⟩
  · exact emission_raise _ _ s
  · have hp := forward_answered (by simp) h
    exact emission_of_calls hs (.inr ⟨hl, .inr (.inr rfl)⟩) (forward_effect h) rfl hp

/-- WAIT is the one command whose call may stay without an answer (60_exceptions R149). -/
theorem execWait_emission {s t : State} (h : execWait s = .next t) : Emission .wait s t := by
  rcases require_next h with rfl | ⟨hl, h⟩
  · exact emission_raise _ _ s
  · have hi : MayCall .wait s := .inr ⟨hl, .inr (.inl rfl)⟩
    obtain ⟨cs, ⟨ht, -, hp⟩ | ⟨sig, ht, -, hp⟩ | ⟨ht, -, rfl, hp⟩⟩ := (forward_effect h).emitted
    · exact .called cs _ hi hp ht
    · exact .called cs _ hi hp ht
    · exact .waiting rfl hl (by rcases hp with hp | ⟨hp, -⟩ <;> simp [hp]) ht

theorem exec_emission {i : Instr} {s t : State} (hs : s.port = .ready) (h : exec i s = .next t) : Emission i s t := by
  cases i with
  | create ord n => exact execCreate_emission h
  | setpxP index cw => exact colourSet_emission _ h
  | setpxC index cw => exact colourSet_emission _ h
  | setpxA index cw => exact setPixel_emission _ h
  | setpxmP x y w cw => exact colourSet_emission _ h
  | setpxmC x y w cw => exact colourSet_emission _ h
  | setpxmA x y w cw => exact setPixel_emission _ h
  | setopt flag =>
    rcases require_next h with rfl | ⟨-, h⟩
    · exact emission_raise _ _ s
    · injection h with h; subst h; exact .answered .ok rfl rfl
  | encode =>
    rcases require_next h with rfl | ⟨-, h⟩
    · exact emission_raise _ _ s
    · injection h with h; subst h; exact .framed .ok rfl rfl rfl
  | init ord n dz d1 f rd => exact execInit_emission hs h
  | start => exact execStart_emission hs h
  | wait => exact execWait_emission h
  | cleanup => exact execCleanup_emission hs h

/-- Settles O43: the events before the response are those of the command's `Emission`. -/
theorem exactlyOneResponse : Obligations.ExactlyOneResponse := by
  intro i s t hs h
  cases exec_emission hs h with
  | answered r hp ht =>
    exact ⟨[], fun _ => ⟨r, by simpa using ht⟩, fun hn => absurd (hp.trans hs) hn, rfl, fun hc => absurd rfl hc,
      fun hf => absurd rfl hf⟩
  | framed r hi hp ht =>
    exact ⟨[.frame s.encodedFrame], fun _ => ⟨r, ht⟩, fun hn => absurd (hp.trans hs) hn, rfl, fun hc => absurd rfl hc,
      fun _ => ⟨hi, rfl⟩⟩
  | called cs r hi hp ht =>
    exact ⟨cs.map Event.call, fun _ => ⟨r, ht⟩, fun hn => absurd (hp.trans hs) hn, responses_map_call cs, fun _ => hi,
      fun hf => absurd (frames_map_call cs) hf⟩
  | waiting hi hl hp ht =>
    exact ⟨[.call .awaitCompletion], fun hr => absurd hr hp, fun _ => ⟨hi, ht⟩, rfl, fun _ => .inr ⟨hl, .inr (.inl hi)⟩,
      fun hf => absurd rfl hf⟩

end Sys2Proof.Machine
end

section
/-! PROOFS. What every step keeps, and who writes which register (10_state R10, R11, R15, R18, R22, R23). -/

namespace Sys2Proof.Machine

/-! ### The invariant in two parts: the registers, and the place inside a command -/

/-- The part of `State.Inv` that speaks of the registers alone (10_state R23, R14). -/
structure State.RegInv (s : State) : Prop where
  num_le : s.num ≤ s.cfg.nMax.val
  slots_wf : s.slots.wf
  slots_lt : ∀ e ∈ s.slots, e.1 < s.num
  empty_zero : s.life = .empty → s.num = 0 ∧ s.opt = false ∧ s.ord = .rgb
  timing_zero : s.life ≠ .facade → s.tZero = 0#32 ∧ s.tOne = 0#32 ∧ s.tFreq = 0#32 ∧ s.tReset = 0#32

theorem State.Inv.registers {s : State} (h : s.Inv) : s.RegInv :=
  ⟨h.num_le, h.slots_wf, h.slots_lt, h.empty_zero, h.timing_zero⟩

/-- The registers' part does not see `FAULT`, the transients, the ports or the adapter. -/
theorem State.RegInv.congr {s : State} (h : s.RegInv) (f : Option Cause) (n : Nat) (fr : Frame) (p : PortState)
    (tr : List Event) (ins : List Input) (a : Adapter) :
    State.RegInv { s with fault := f, scan := n, frame := fr, port := p, trace := tr, inputs := ins, adapter := a } :=
  ⟨h.num_le, h.slots_wf, h.slots_lt, h.empty_zero, h.timing_zero⟩

/-- Between commands no byte stands (10_state R21). -/
theorem State.Inv.ready {s : State} (h : s.Inv) (hp : s.port = .ready) : s.frame = [] ∧ s.scan = 0 := by
  have hf : s.frame = [] := h.frame_nil (by rw [hp]; rfl)
  exact ⟨hf, by rw [h.scan_frame, hf]; rfl⟩

/-- Where no byte stands, the place has to be one that needs no whole frame, with the buffer or the facade it needs. -/
theorem State.RegInv.inv_of_no_byte {s : State} (h : s.RegInv) (hf : s.frame = []) (hn : s.scan = 0)
    (hd : s.port ≠ .delivered) (hs : ∀ f a, s.port ≠ .calling (.send f) a) (hb : s.port ≠ .ready → s.life ≠ .empty)
    (hl : s.port.ofFacade = true → s.life = .facade) (hr : s.port = .holding → s.adapter.isReference = true) : s.Inv :=
  { h with
    scan_frame := by rw [hf, hn]; rfl
    frame_bytes := fun k hk => by omega
    scan_le := by omega
    frame_nil := fun _ => hf
    delivered_whole := fun hp => absurd hp hd
    sent_whole := fun f a hp => absurd hp (hs f a)
    port_buffer := hb
    port_facade := hl
    holding_reference := hr }

/-- Between commands the invariant is that of the registers. -/
theorem State.RegInv.inv_of_ready {s : State} (h : s.RegInv) (hf : s.frame = []) (hn : s.scan = 0)
    (hp : s.port = .ready) : s.Inv :=
  h.inv_of_no_byte hf hn (by simp [hp]) (by simp [hp]) (fun hr => absurd hp hr) (by simp [hp, PortState.ofFacade])
    (by simp [hp])

/-- Inside a facade's call other than `send` it is that of the registers, too. -/
theorem State.RegInv.inv_of_call {s : State} (h : s.RegInv) (hf : s.frame = []) (hn : s.scan = 0)
    (hl : s.life = .facade) {c : AdpCall} (hc : ∀ f, c ≠ .send f) (hp : InCall c s.adapter s.port) : s.Inv := by
  have hno : s.port.hasFrame = false := hp.hasFrame hc
  refine h.inv_of_no_byte hf hn ?_ ?_ (by simp [hl]) (fun _ => hl) hp.isReference
  · intro hd; rw [hd] at hno; cases hno
  · intro f a hs; rw [hs] at hno; cases hno

/-- What stands outside the block may change: the inputs, and the adapter within its kind. -/
theorem State.Inv.congr_outside {s : State} (h : s.Inv) (ins : List Input) {a : Adapter}
    (ha : a.isReference = s.adapter.isReference) : State.Inv { s with adapter := a, inputs := ins } :=
  { h with holding_reference := fun hp => ha.trans (h.holding_reference hp) }

theorem State.Inv.congr_inputs {s : State} (h : s.Inv) (ins : List Input) : State.Inv { s with inputs := ins } :=
  h.congr_outside ins rfl

/-! ### Construction, writing a slot, reset -/

/-- A reset gives the invariant from any state. -/
theorem resetBlock_inv (s : State) : (resetBlock s).Inv :=
  State.RegInv.inv_of_ready
    ⟨Nat.zero_le _, Memory.clear_wf, by simp, fun _ => ⟨rfl, rfl, rfl⟩, fun _ => ⟨rfl, rfl, rfl, rfl⟩⟩ rfl rfl rfl

/-- CREATE's registers: the timing profile is still that of EMPTY (10_state R23). -/
theorem State.RegInv.created {s : State} (h : s.RegInv) (o : ChannelOrder) {n : Nat} (hl : s.life = .empty)
    (hn : n ≤ s.cfg.nMax.val) : State.RegInv { s.createBuffer o n with life := .core } :=
  ⟨hn, Memory.clear_wf, by simp, nofun, fun _ => h.timing_zero (by simp [hl])⟩

theorem committed_regInv (s : State) (o : ChannelOrder) {n : Nat} (hn : n ≤ s.cfg.nMax.val) (dz d1 f rd : Word) :
    (s.committed o n dz d1 f rd).RegInv :=
  ⟨hn, Memory.clear_wf, by simp [State.committed], nofun, fun hl => absurd rfl hl⟩

/-- A write inside the buffer lists no slot outside it (10_state R14). -/
theorem State.RegInv.pixel {s : State} (h : s.RegInv) {i : Nat} (hi : i < s.num) (c : PixelColor) :
    State.RegInv { s with slots := s.slots.write i c } := by
  refine { h with slots_wf := Memory.write_wf h.slots_wf i c, slots_lt := fun e he => ?_ }
  rcases Memory.mem_write h.slots_wf he with ⟨rfl, -⟩ | ⟨he, -⟩
  · exact hi
  · exact h.slots_lt e he

theorem State.RegInv.option {s : State} (h : s.RegInv) (b : Bool) (hl : s.life ≠ .empty) :
    State.RegInv { s with opt := b } :=
  { h with empty_zero := fun he => absurd he hl }

/-! ### Every effect of a command keeps the invariant -/

/-- Calls of a facade, made whole: answered, or inside an `awaitCompletion`. -/
theorem CallEffect.inv {b t : State} (h : CallEffect b t) (hb : b.RegInv) (hf : b.frame = []) (hn : b.scan = 0)
    (hp : b.port = .ready) (hl : b.life = .facade) : t.Inv := by
  cases h with
  | done cs a => exact (hb.congr ..).inv_of_ready hf hn hp
  | failed cs a sig => exact (hb.congr ..).inv_of_ready hf hn hp
  | waiting a p hw =>
    have hc : InCall .awaitCompletion a p := .inr ⟨rfl, hw.imp_right fun ⟨hh, hr, _⟩ => ⟨hh, hr⟩⟩
    exact (hb.congr ..).inv_of_call hf hn hl (by simp) hc

/-- A command executed whole. -/
theorem Effect.inv {s t : State} (h : Effect s t) (hs : s.Inv) (hp : s.port = .ready) : t.Inv := by
  obtain ⟨hf, hn⟩ := hs.ready hp
  have hr := hs.registers
  cases h with
  | raised e _ => exact (hr.congr ..).inv_of_ready hf hn hp
  | created o n hl hn' => exact ((hr.created o hl hn').congr ..).inv_of_ready hf hn hp
  | pixel i c _ hi => exact ((hr.pixel hi c).congr ..).inv_of_ready hf hn hp
  | option b hl => exact ((hr.option b hl).congr ..).inv_of_ready hf hn hp
  | encoded _ => exact (hr.congr ..).inv_of_ready hf rfl hp
  | inited o n dz d1 f rd t _ hn' hc => exact hc.inv (committed_regInv s o hn' dz d1 f rd) hf hn hp rfl
  | started t hl hc => exact hc.inv (hr.congr ..) hf rfl hp hl
  | forwarded t hl hc => exact hc.inv hr hf hn hp hl

/-- The first piece of a command. -/
theorem BeginEffect.inv {s t : State} (h : BeginEffect s t) (hs : s.Inv) (hp : s.port = .ready) : t.Inv := by
  obtain ⟨hf, hn⟩ := hs.ready hp
  have hr := hs.registers
  cases h with
  | whole t he => exact he.inv hs hp
  | frame d hl hd =>
    refine (hr.congr ..).inv_of_no_byte rfl rfl nofun nofun (fun _ => hl) ?_ nofun
    cases d with
    | out => exact nofun
    | adapter => exact fun _ => hd rfl
  | call c a p hl hc hp' => exact (hr.congr ..).inv_of_call hf hn hl hc hp'
  | init o n dz d1 f rd a p _ hn' hp' =>
    exact ((committed_regInv s o hn' dz d1 f rd).congr ..).inv_of_call hf hn rfl (by simp) hp'

/-- A list of right bytes stays right when its next byte is appended (42_encode_serializer R105). -/
theorem bytes_append {f : Frame} {b : Nat → Byte} (h : ∀ k < f.length, f[k]? = some (b k)) :
    ∀ k < f.length + 1, (f ++ [b f.length])[k]? = some (b k) := by
  intro k hk
  rcases Nat.lt_succ_iff_lt_or_eq.mp hk with hk | rfl
  · rw [List.getElem?_append_left hk, h k hk]
  · simp

/-- A micro-step: the one byte that comes to stand is the buffer's. -/
theorem State.Inv.byte {s : State} (h : s.Inv) {d : Destination} (hp : s.port = .serializing d)
    (hn : s.scan < 3 * s.num) :
    State.Inv { s with frame := s.frame ++ [s.frameByte s.scan], scan := s.scan + 1 } := by
  have hb := h.frame_bytes
  exact
    { h with
      scan_frame := by simp [h.scan_frame]
      frame_bytes := by rw [h.scan_frame] at hb ⊢; exact bytes_append hb
      scan_le := hn
      frame_nil := by simp [hp, PortState.hasFrame]
      delivered_whole := by simp [hp]
      sent_whole := by simp [hp] }

/-- A finished frame may leave: `p` is the place behind its delivery, `a` the adapter as the delivery leaves it. -/
theorem State.Inv.deliver {s : State} (h : s.Inv) {d : Destination} (hp : s.port = .serializing d)
    (hn : 3 * s.num ≤ s.scan) (tr : List Event) (a : Adapter) {p : PortState} (hf : p.hasFrame = true)
    (hs : ∀ f ans, p = .calling (.send f) ans → f = s.frame) (hl : p.ofFacade = true → d = .adapter) :
    State.Inv { s with trace := tr, adapter := a, port := p } := by
  have whole : s.scan = 3 * s.num := Nat.le_antisymm h.scan_le hn
  exact
    { h with
      frame_nil := by simp [hf]
      delivered_whole := fun _ => whole
      sent_whole := fun f ans hc => ⟨whole, (hs f ans hc).symm⟩
      port_buffer := fun _ => h.port_buffer (by simp [hp])
      port_facade := fun hc => h.port_facade (by rw [hp, hl hc]; rfl)
      holding_reference := by rintro (rfl : p = .holding); cases hf }

/-- A further piece of a command. -/
theorem AdvanceEffect.inv {s t : State} (h : AdvanceEffect s t) (hs : s.Inv) : t.Inv := by
  have hr := hs.registers
  have hold (hp : s.port = .holding) : s.frame = [] ∧ s.scan = 0 ∧ s.life = .facade := by
    have hf : s.frame = [] := hs.frame_nil (by rw [hp]; rfl)
    exact ⟨hf, by rw [hs.scan_frame, hf]; rfl, hs.port_facade (by rw [hp]; rfl)⟩
  cases h with
  | stay _ => exact hs
  | byte d hp hn => exact hs.byte hp hn
  | frameOut hp hn => exact hs.deliver hp hn _ _ rfl nofun nofun
  | frameSent a ans hp hn =>
    refine hs.deliver hp hn _ a rfl ?_ fun _ => rfl
    rintro f ans' ⟨⟩
    rfl
  | configured a p hp hp' =>
    exact (hr.congr ..).inv_of_call rfl rfl (hs.port_facade (by rw [hp]; rfl)) (by simp) hp'
  | responded _ => exact (hr.congr ..).inv_of_ready rfl rfl rfl
  | failed c sig _ => exact (hr.congr ..).inv_of_ready rfl rfl rfl
  | awaited a hp =>
    obtain ⟨hf, hn, -⟩ := hold hp
    exact (hr.congr ..).inv_of_ready hf hn rfl
  | awaitFailed sig a hp =>
    obtain ⟨hf, hn, -⟩ := hold hp
    exact (hr.congr ..).inv_of_ready hf hn rfl
  | waiting a p hp hw =>
    obtain ⟨hf, hn, hl⟩ := hold hp
    have hc : InCall .awaitCompletion a p := .inr ⟨rfl, hw⟩
    exact (hr.congr ..).inv_of_call hf hn hl (by simp) hc
  | completed _ => exact hs.congr_outside s.inputs (complete_isReference _)

/-- Settles O56: every step is one of the step effects, and each of them keeps the invariant. -/
theorem stepKeepsInvariant : Obligations.StepKeepsInvariant := by
  intro s t hs h
  cases step_effect h with
  | command i ins t hp he => exact (exec_effect he).inv (hs.congr_inputs ins) hp
  | began i ins t hp he => exact (begin_effect he).inv (hs.congr_inputs ins) hp
  | illegal w rest hp =>
    obtain ⟨hf, hn⟩ := hs.ready hp
    exact (hs.registers.congr ..).inv_of_ready hf hn hp
  | reset ws rest _ => exact resetBlock_inv _
  | adapter ins => exact hs.congr_outside ins (complete_isReference _)
  | stay ins _ => exact hs.congr_inputs ins
  | advanced ins t _ he => exact he.inv (hs.congr_inputs ins)

/-! ### How `LIFE` moves -/

/-- Calls leave `LIFE` alone. -/
theorem CallEffect.life {b t : State} (h : CallEffect b t) : t.life = b.life := by rw [h.frame]

theorem AdvanceEffect.life {s t : State} (h : AdvanceEffect s t) : t.life = s.life := by
  cases h <;> rfl

/-- A command moves `LIFE` only out of EMPTY (10_state R11). -/
theorem Effect.life {s t : State} (h : Effect s t) :
    t.life = s.life ∨ s.life = .empty ∧ (t.life = .core ∨ t.life = .facade) := by
  cases h with
  | created o n hl _ => exact .inr ⟨hl, .inl rfl⟩
  | inited o n dz d1 f rd t hl _ hc => exact .inr ⟨hl, .inr hc.life⟩
  | started t _ hc => exact .inl hc.life
  | forwarded t _ hc => exact .inl hc.life
  | _ => exact .inl rfl

theorem BeginEffect.life {s t : State} (h : BeginEffect s t) :
    t.life = s.life ∨ s.life = .empty ∧ (t.life = .core ∨ t.life = .facade) := by
  cases h with
  | whole t he => exact he.life
  | init o n dz d1 f rd a p hl _ _ => exact .inr ⟨hl, .inr rfl⟩
  | _ => exact .inl rfl

/-- Settles O57: of the step effects only a reset takes `LIFE` back. -/
theorem lifeMovesForwardUntilReset : Obligations.LifeMovesForwardUntilReset := by
  intro s t h
  cases step_effect h with
  | command i ins t _ he => exact (exec_effect he).life.imp_right .inl
  | began i ins t _ he => exact (begin_effect he).life.imp_right .inl
  | reset ws rest hi => exact .inr (.inr ⟨rfl, ws, rest, hi, rfl⟩)
  | advanced ins t _ he => exact .inl he.life
  | _ => exact .inl rfl

/-! ### Who writes which register -/

/-- What the command `i` may write on its way from `s` to `t`, apart from `FAULT`, the transients, the ports and the
adapter (10_state R10). -/
inductive Writes (i : Instr) (s : State) : State → Prop
  | nothing (f : Option Cause) (n : Nat) (p : PortState) (tr : List Event) (a : Adapter) :
      Writes i s { s with fault := f, scan := n, port := p, trace := tr, adapter := a }
  /-- A set writes the slots. -/
  | slots (index : Int) (hi : pixelIndex i = some index) (m : Memory) (tr : List Event) :
      Writes i s { s with slots := m, trace := tr }
  /-- SETOPT writes `OPT`. -/
  | option (b : Bool) (hi : i = .setopt b) (tr : List Event) : Writes i s { s with opt := b, trace := tr }
  /-- CREATE writes the buffer's registers, where there is no buffer yet. -/
  | buffer (ord : BitVec 3) (n : Word) (hi : i = .create ord n) (hl : s.life = .empty) (o : ChannelOrder) (k : Nat)
      (tr : List Event) : Writes i s { s.createBuffer o k with life := .core, trace := tr }
  /-- INIT may write any register, where there is no buffer yet. -/
  | all (ord : BitVec 3) (n dz d1 f rd : Word) (hi : i = .init ord n dz d1 f rd) (hl : s.life = .empty) (t : State) :
      Writes i s t

theorem writes_raise (i : Instr) (e : Err) (s : State) : Writes i s (raise e s) := .nothing _ _ _ _ _

theorem CallEffect.writes {b t : State} (h : CallEffect b t) (i : Instr) : Writes i b t := by
  rw [h.frame]; exact .nothing _ _ _ _ _

theorem setPixel_writes {i : Instr} {index : Int} {c : PixelColor} {s t : State} (hi : pixelIndex i = some index)
    (h : setPixel index c s = .next t) : Writes i s t := by
  rcases setPixel_cases index c s with ⟨e, -, h'⟩ | ⟨-, -, -, h'⟩ <;> rw [h'] at h <;> injection h with h <;> subst h
  · exact writes_raise i e s
  · exact .slots index hi _ _

theorem colourSet_writes {i : Instr} {cw : Word} {index : Int} {c : PixelColor} {s t : State}
    (hi : pixelIndex i = some index) (h : requireColour cw s (setPixel index c s) = .next t) : Writes i s t := by
  rcases require_next h with rfl | ⟨-, h⟩
  · exact writes_raise i _ s
  · exact setPixel_writes hi h

/-- A facade's command that is one call writes no register. -/
theorem forward_writes {i : Instr} {c : AdpCall} {e : Err} {s t : State} (n : Nat)
    (h : require (s.life = .facade) e s (forward c { s with scan := n }) = .next t) : Writes i s t := by
  rcases require_next h with rfl | ⟨-, h⟩
  · exact writes_raise i _ s
  · rw [(forward_effect h).frame]; exact .nothing _ _ _ _ _

theorem exec_writes {i : Instr} {s t : State} (h : exec i s = .next t) : Writes i s t := by
  cases i with
  | create ord n =>
    change execCreate ord n s = _ at h
    rcases withConstructor_next h with ⟨e, rfl⟩ | ⟨o, hl, h⟩
    · exact writes_raise _ e s
    · injection h with h; subst h; exact .buffer ord n rfl hl o _ _
  | setpxP index cw => exact colourSet_writes rfl h
  | setpxC index cw => exact colourSet_writes rfl h
  | setpxA index cw => exact setPixel_writes rfl h
  | setpxmP x y w cw => exact colourSet_writes rfl h
  | setpxmC x y w cw => exact colourSet_writes rfl h
  | setpxmA x y w cw => exact setPixel_writes rfl h
  | setopt flag =>
    rcases require_next h with rfl | ⟨-, h⟩
    · exact writes_raise _ _ s
    · injection h with h; subst h; exact .option flag rfl _
  | encode =>
    rcases require_next h with rfl | ⟨-, h⟩
    · exact writes_raise _ _ s
    · injection h with h; subst h; exact .nothing _ _ _ _ _
  | init ord n dz d1 f rd =>
    change execInit ord n dz d1 f rd s = _ at h
    rcases withConstructor_next h with ⟨e, rfl⟩ | ⟨o, hl, -⟩
    · exact writes_raise _ e s
    · exact .all ord n dz d1 f rd rfl hl t
  | start => exact forward_writes 0 h
  | wait => exact forward_writes s.scan h
  | cleanup => exact forward_writes s.scan h

/-- Settles O58: each clause is read off from what a command may write. -/
theorem writersOfEachRegister : Obligations.WritersOfEachRegister := by
  intro i s t h
  cases exec_writes h with
  | nothing f n p tr a => simp
  | slots index hi m tr => simp [hi]
  | option b hi tr => simp [hi]
  | buffer ord n hi hl o k tr => simp [hi, hl]
  | all ord n dz d1 f rd hi hl t => simp [hi, hl]

/-! ### The layout of a slot -/

/-- A colour word is its high byte and the three channels below it. -/
theorem colourWord_channels (cw : Word) : cw = highByte cw ++ redByte cw ++ greenByte cw ++ blueByte cw := by
  apply BitVec.eq_of_getLsbD_eq
  intro i hi
  simp only [highByte, redByte, greenByte, blueByte, BitVec.getLsbD_append, BitVec.getLsbD_extractLsb']
  interval_cases i <;> simp

/-- A colour word is its high byte and the packed colour below it. -/
theorem colourWord_packed (cw : Word) : cw = highByte cw ++ cw.extractLsb' 0 24 := by
  apply BitVec.eq_of_getLsbD_eq
  intro i hi
  simp only [highByte, BitVec.getLsbD_append, BitVec.getLsbD_extractLsb']
  interval_cases i <;> simp

/-- Settles O24: each form lays the parts of the colour word side by side again, a clear high byte included. -/
theorem slotLayoutKeepsColourWord : Obligations.SlotLayoutKeepsColourWord := by
  intro cw
  have packed : (packedColor cw).slotBits = 0#2 ++ (0#8 ++ cw.extractLsb' 0 24 : Word) := rfl
  have struct : (structColor cw).slotBits = 1#2 ++ (0#8 ++ redByte cw ++ greenByte cw ++ blueByte cw : Word) := rfl
  have alpha : (alphaColor cw).slotBits = 2#2 ++ (highByte cw ++ redByte cw ++ greenByte cw ++ blueByte cw : Word) := rfl
  refine ⟨fun (hc : highByte cw = 0#8) => ⟨?_, ?_⟩, ?_⟩
  · rw [packed, ← hc, ← colourWord_packed]
  · rw [struct, ← hc, ← colourWord_channels]
  · rw [alpha, ← colourWord_channels]

/-! ### The status output -/

theorem causeCode_ne_zero (c : Cause) : c.code ≠ 0#3 := by cases c <;> decide

theorem causeCode_inj {c d : Cause} : c.code = d.code ↔ c = d := by
  constructor
  · cases c <;> cases d <;> decide
  · exact congrArg Cause.code

/-- Settles O42: the codes of the causes are distinct and none of them is 0. -/
theorem statusOutputShowsFault : Obligations.StatusOutputShowsFault := by
  refine ⟨rfl, rfl, fun s => ?_⟩
  cases hf : s.fault with
  | none => simp [State.faultCause, hf, (causeCode_ne_zero _).symm]
  | some d => simp [State.faultCause, hf, causeCode_ne_zero, causeCode_inj]

/-! ### The reset state -/

/-- `State.reset` is a state right after an asserted reset. -/
theorem resetBlock_reset : resetBlock State.reset = State.reset := rfl

/-- Settles O54: the values of 10_state R22, which `State.reset` writes out. -/
theorem resetStateRegisters : Obligations.ResetStateRegisters :=
  ⟨rfl, rfl, rfl, rfl, rfl, rfl, rfl, rfl, rfl, rfl, rfl, rfl, rfl, rfl⟩

/-- Settles O55: every asserted reset leads to the invariant. -/
theorem resetStateMeetsInvariant : Obligations.ResetStateMeetsInvariant := by
  change State.reset.Inv
  rw [← resetBlock_reset]
  exact resetBlock_inv State.reset

end Sys2Proof.Machine
end

section
/-! PROOFS. The decoder reads a command back from its own words, whatever words follow (30_encoding R45 to R51). -/

namespace Sys2Proof

/-! ### The rows that hold a header with an operand in it -/

theorem selectRow_create (ord : BitVec 3) :
    selectRow (header 0x01#8 (0#5 ++ ord)) = some ⟨.create, .c, 0x01000000#32, 0xFFFFFFF8#32⟩ := by
  revert ord; decide

theorem selectRow_init (ord : BitVec 3) :
    selectRow (header 0x10#8 (0#5 ++ ord)) = some ⟨.init, .i, 0x10000000#32, 0xFFFFFFF8#32⟩ := by
  revert ord; decide

theorem selectRow_setopt (flag : Bool) :
    selectRow (header 0x04#8 (0#7 ++ BitVec.ofBool flag)) = some ⟨.setopt, .f, 0x04000000#32, 0xFFFFFFFE#32⟩ := by
  revert flag; decide

/-- Behind a legal header the operands are read as its row has them. -/
theorem decode_of_selectRow {h : Word} {r : Row} (hs : selectRow h = some r) (ws : List Word) :
    decode (h :: ws) = decodeOperands r.op h ws := by
  simp only [decode, hs]

/-- A command with a colour word passes the decoder's own check of that word; the other ten have nothing to check. -/
theorem decode_encode {i : Instr} (hi : i.wellFormed = true) (rest : List Word) :
    decode (encode i ++ rest) = .ok i rest := by
  cases i with
  | create ord n => exact (decode_of_selectRow (selectRow_create ord) _).trans (by simp [decodeOperands])
  | init ord n dz d1 f rd => exact (decode_of_selectRow (selectRow_init ord) _).trans (by simp [decodeOperands])
  | setopt flag => exact (decode_of_selectRow (selectRow_setopt flag) _).trans (by simp [decodeOperands])
  | setpxP index cw => exact checkColour_clear (highByteClear_iff.mp hi) _ rest
  | setpxC index cw => exact checkColour_clear (highByteClear_iff.mp hi) _ rest
  | setpxmP x y w cw => exact checkColour_clear (highByteClear_iff.mp hi) _ rest
  | setpxmC x y w cw => exact checkColour_clear (highByteClear_iff.mp hi) _ rest
  | setpxA index cw => rfl
  | setpxmA x y w cw => rfl
  | encode => rfl
  | start => rfl
  | wait => rfl
  | cleanup => rfl

end Sys2Proof
end

section
/-! PROOFS. The command stream and the outputs (20_memory R39, R43). -/

namespace Sys2Proof.Machine

/-! ### Taking a command from the stream -/

theorem stepReady_of_decode {s : State} {i : Instr} {rest : List Word}
    (hd : decode (leadingWords s.inputs) = .ok i rest) : stepReady s = perform i rest (afterWords s.inputs) s := by
  simp only [stepReady, hd]

/-- Settles O46: the two clauses are the two ways a decoded command is performed. -/
theorem stepRunsDecodedCommand : Obligations.StepRunsDecodedCommand := by
  intro s i rest hp hd
  have hs : step s = perform i rest (afterWords s.inputs) s := (step_ready hp).trans (stepReady_of_decode hd)
  refine ⟨fun ht => hs.trans (perform_whole ht i s), ?_⟩
  rintro l rfl ht
  rw [hs, ht]
  exact perform_tick i l s

/-- Inputs without a leading word are what stands behind their leading words. -/
theorem afterWords_of_no_word {l : List Input} (h : leadingWords l = []) : afterWords l = l := by
  simpa [h] using leadingWords_afterWords l

/-- Settles O47: the words in front are read back as the command, and what the decoder leaves of the stream is the tail. -/
theorem presentedCommandRuns : Obligations.PresentedCommandRuns := by
  intro s i tail hp hi hs
  have hd : decode (leadingWords s.inputs) = .ok i (leadingWords tail) := by
    rw [hs, leadingWords_append, decode_encode hi]
  have ha : afterWords s.inputs = afterWords tail := by rw [hs, afterWords_append]
  obtain ⟨whole, first⟩ := stepRunsDecodedCommand s i (leadingWords tail) hp hd
  rw [ha] at whole first
  constructor
  · intro ht
    have hno : leadingWords tail = [] → ∀ l, afterWords tail ≠ .tick :: l := fun hw => by
      rwa [afterWords_of_no_word hw]
    rw [whole hno, leadingWords_afterWords]
  · rintro l rfl
    exact first l rfl rfl

/-! ### What has been emitted stands -/

/-- From `s` to `t` the outputs are only added to and the parameters stay (20_memory R39, 00_scope R6). -/
structure OutputsKept (s t : State) : Prop where
  trace : ∃ es, t.trace = s.trace ++ es
  cfg : t.cfg = s.cfg

/-- Where nothing is emitted. -/
theorem outputsKept_of_eq {s t : State} (ht : t.trace = s.trace) (hc : t.cfg = s.cfg) : OutputsKept s t :=
  ⟨⟨[], by rw [ht, List.append_nil]⟩, hc⟩

/-- Where the event `e` is emitted. -/
theorem outputsKept_of_event {s t : State} (e : Event) (ht : t.trace = s.trace ++ [e]) (hc : t.cfg = s.cfg) :
    OutputsKept s t :=
  ⟨⟨[e], ht⟩, hc⟩

theorem CallEffect.outputsKept {b t : State} (h : CallEffect b t) : OutputsKept b t := by
  refine ⟨?_, by rw [h.frame]⟩
  obtain ⟨cs, ⟨ht, -⟩ | ⟨sig, ht, -⟩ | ⟨ht, -⟩⟩ := h.emitted
  · exact ⟨_, ht.trans (List.append_assoc ..)⟩
  · exact ⟨_, ht.trans (List.append_assoc ..)⟩
  · exact ⟨_, ht⟩

theorem Effect.cfg {s t : State} (h : Effect s t) : t.cfg = s.cfg := by
  cases h with
  | inited o n dz d1 f rd t _ _ hc => exact hc.outputsKept.cfg
  | started t _ hc => exact hc.outputsKept.cfg
  | forwarded t _ hc => exact hc.outputsKept.cfg
  | _ => rfl

theorem Effect.outputsKept {s t : State} (h : Effect s t) : OutputsKept s t := by
  refine ⟨?_, h.cfg⟩
  obtain ⟨es, e, ht, -⟩ | ⟨es, ht, -⟩ | ⟨cs, ht, -⟩ := h.emitted
  · exact ⟨_, ht.trans (List.append_assoc ..)⟩
  · exact ⟨_, ht.trans (List.append_assoc ..)⟩
  · exact ⟨_, ht⟩

theorem BeginEffect.outputsKept {s t : State} (h : BeginEffect s t) : OutputsKept s t := by
  cases h with
  | whole t he => exact he.outputsKept
  | frame d _ _ => exact outputsKept_of_eq rfl rfl
  | call c a p _ _ _ => exact outputsKept_of_event (.call c) rfl rfl
  | init o n dz d1 f rd a p _ _ _ => exact outputsKept_of_event (.call .initialise) rfl rfl

theorem AdvanceEffect.outputsKept {s t : State} (h : AdvanceEffect s t) : OutputsKept s t := by
  cases h with
  | stay _ => exact outputsKept_of_eq rfl rfl
  | byte d _ _ => exact outputsKept_of_eq rfl rfl
  | waiting a p _ _ => exact outputsKept_of_eq rfl rfl
  | completed _ => exact outputsKept_of_eq rfl rfl
  | _ => exact outputsKept_of_event _ rfl rfl

/-- Taking inputs emits nothing. -/
theorem OutputsKept.of_inputs {s t : State} {ins : List Input} (h : OutputsKept { s with inputs := ins } t) :
    OutputsKept s t :=
  ⟨h.trace, h.cfg⟩

/-- Neither a reset nor waiting emits anything, and no piece of a command takes anything back. -/
theorem StepEffect.outputsKept {s t : State} (h : StepEffect s t) : OutputsKept s t := by
  cases h with
  | command i ins t _ he => exact (exec_effect he).outputsKept.of_inputs
  | began i ins t _ he => exact (begin_effect he).outputsKept.of_inputs
  | advanced ins t _ he => exact he.outputsKept.of_inputs
  | illegal w rest _ => exact outputsKept_of_event (.response (.err (.illegalCommand w))) rfl rfl
  | reset ws rest _ => exact outputsKept_of_eq rfl rfl
  | adapter ins => exact outputsKept_of_eq rfl rfl
  | stay ins _ => exact outputsKept_of_eq rfl rfl

/-- Settles O59: every step effect keeps the outputs. -/
theorem outputsAreNeverRecalled : Obligations.OutputsAreNeverRecalled := by
  intro s t h
  obtain ⟨htrace, hcfg⟩ := (step_effect h).outputsKept
  exact ⟨htrace, hcfg⟩

end Sys2Proof.Machine
end

section
/-! PROOFS. What the decoder can answer, said once, and what follows for every header and every list of words
(30_encoding R45 to R53). -/

namespace Sys2Proof

/-! ### The rows of the opcode map -/

/-- Settles O3: two rows that one header selects agree where both masks look, and no two rows of the map do. -/
theorem opcodeRowsExclusive : Obligations.OpcodeRowsExclusive := by
  have apart : ∀ r₁ ∈ opcodeTable, ∀ r₂ ∈ opcodeTable, r₁.pattern &&& r₂.mask = r₂.pattern &&& r₁.mask → r₁ = r₂ := by
    decide
  intro h r₁ r₂ m₁ m₂ s₁ s₂
  simp only [Row.selects, beq_iff_eq] at s₁ s₂
  refine apart r₁ m₁ r₂ m₂ ?_
  rw [← s₁, ← s₂, BitVec.and_assoc, BitVec.and_assoc, BitVec.and_comm r₁.mask]

/-- The format of a row (30_encoding R50). -/
def Opcode.format : Opcode → Format
  | .create => .c
  | .setpxP | .setpxC | .setpxA => .p
  | .setpxmP | .setpxmC | .setpxmA => .m
  | .setopt => .f
  | .init => .i
  | .encode | .start | .wait | .cleanup => .z

theorem format_of_mem : ∀ r ∈ opcodeTable, r.op.format = r.format := by decide

/-- The header of a command of the row `op` with the operand `ord` or `flag`, where its format has one
(30_encoding R46, R50). -/
def Opcode.headerWith (op : Opcode) (ord : BitVec 3) (flag : Bool) : Word :=
  match op with
  | .create => header 0x01#8 (0#5 ++ ord)
  | .setpxP => header 0x02#8 0x00#8
  | .setpxC => header 0x02#8 0x01#8
  | .setpxA => header 0x02#8 0x02#8
  | .setpxmP => header 0x03#8 0x00#8
  | .setpxmC => header 0x03#8 0x01#8
  | .setpxmA => header 0x03#8 0x02#8
  | .setopt => header 0x04#8 (0#7 ++ BitVec.ofBool flag)
  | .encode => header 0x05#8 0x00#8
  | .init => header 0x10#8 (0#5 ++ ord)
  | .start => header 0x11#8 0x00#8
  | .wait => header 0x12#8 0x00#8
  | .cleanup => header 0x13#8 0x00#8

/-- A row's header is its pattern with the operand in the bits its mask leaves out. -/
theorem headerWith_of_mem : ∀ r ∈ opcodeTable,
    (r.mask = 0xFFFFFFFF#32 ∧ ∀ o b, r.op.headerWith o b = r.pattern) ∨
    (r.mask = 0xFFFFFFF8#32 ∧ ∀ o b, r.op.headerWith o b = r.pattern ||| o.setWidth 32) ∨
    (r.mask = 0xFFFFFFFE#32 ∧ ∀ o b, r.op.headerWith o b = r.pattern ||| (BitVec.ofBool b).setWidth 32) := by
  decide

/-- A header that selects a row is that row's header with its own operand: no bit of it is dropped. -/
theorem headerWith_of_selectRow {h : Word} {r : Row} (hs : selectRow h = some r) :
    r.op.headerWith (ordField h) (flagField h) = h := by
  obtain ⟨hr, hm⟩ := selectRow_some hs
  rcases headerWith_of_mem r hr with ⟨hk, hw⟩ | ⟨hk, hw⟩ | ⟨hk, hw⟩ <;> rw [hw, ← hm, hk]
  · exact and_full h
  · exact (header_of_ord h).symm
  · exact (header_of_flag h).symm

/-! ### The answers of the decoder -/

/-- What the decoder can answer to the header `h` with the words `ws` behind it (30_encoding R50 to R53). -/
inductive DecodedAs (h : Word) (ws : List Word) : Decoded → Prop
  /-- A whole command: the words it stands for, as many as the header asks for. -/
  | command (i : Instr) (rest : List Word) (hi : i.wellFormed = true) (he : h :: ws = encode i ++ rest)
      (hl : ws.length + 1 = commandLength h + rest.length) : DecodedAs h ws (.ok i rest)
  /-- No row is selected. -/
  | badHeader (hs : selectRow h = none) : DecodedAs h ws (.badHeader h ws)
  /-- A colour word with a reserved bit, and as many words as the header asks for. -/
  | badColour (cw : Word) (rest : List Word) (hc : cw.extractLsb' 24 8 ≠ 0#8)
      (hl : ws.length + 1 = commandLength h + rest.length) : DecodedAs h ws (.badColour cw rest)
  /-- Fewer words than the header asks for. -/
  | incomplete (hl : ws.length + 1 < commandLength h) : DecodedAs h ws .incomplete

/-- The colour-word check of a command that is ill-formed only by its colour word (30_encoding R52 (b)). -/
theorem checkColour_decodedAs {h cw : Word} {ws rest : List Word} {i : Instr} (hi : i.wellFormed = highByteClear cw)
    (he : h :: ws = encode i ++ rest) (hl : ws.length + 1 = commandLength h + rest.length) :
    DecodedAs h ws (checkColour cw i rest) := by
  by_cases hc : cw.extractLsb' 24 8 = 0#8
  · rw [checkColour_clear hc]
    exact .command i rest (hi.trans (highByteClear_iff.mpr hc)) he hl
  · rw [checkColour_reserved hc]
    exact .badColour cw rest hc hl

/-- The operands behind a header of the row `op`: the words that have arrived are too few, or the command's own. -/
theorem decodeOperands_decodedAs {op : Opcode} {h : Word} (hh : op.headerWith (ordField h) (flagField h) = h)
    (hn : commandLength h = op.format.words) (ws : List Word) : DecodedAs h ws (decodeOperands op h ws) := by
  have he {x : Word} {l : List Word} (hx : op.headerWith (ordField h) (flagField h) = x) : h :: l = x :: l := by
    rw [← hx, hh]
  have hl {l rest : List Word} (hk : l.length + 1 = rest.length + op.format.words) :
      l.length + 1 = commandLength h + rest.length := by rw [hk, hn, Nat.add_comm]
  have short {l : List Word} (hk : l.length + 1 < op.format.words) : DecodedAs h l .incomplete := .incomplete (hn ▸ hk)
  cases op with
  | setopt | encode | start | wait | cleanup => exact .command _ _ rfl (he rfl) (hl rfl)
  | create =>
    match ws with
    | [] => exact short (by simp [Opcode.format, Format.words])
    | n :: rest => exact .command _ _ rfl (he rfl) (hl rfl)
  | setpxP | setpxC =>
    match ws with
    | [] | [_] => exact short (by simp [Opcode.format, Format.words])
    | index :: cw :: rest => exact checkColour_decodedAs rfl (he rfl) (hl rfl)
  | setpxA =>
    match ws with
    | [] | [_] => exact short (by simp [Opcode.format, Format.words])
    | index :: cw :: rest => exact .command _ _ rfl (he rfl) (hl rfl)
  | setpxmP | setpxmC =>
    match ws with
    | [] | [_] | [_, _] | [_, _, _] => exact short (by simp [Opcode.format, Format.words])
    | x :: y :: w :: cw :: rest => exact checkColour_decodedAs rfl (he rfl) (hl rfl)
  | setpxmA =>
    match ws with
    | [] | [_] | [_, _] | [_, _, _] => exact short (by simp [Opcode.format, Format.words])
    | x :: y :: w :: cw :: rest => exact .command _ _ rfl (he rfl) (hl rfl)
  | init =>
    match ws with
    | [] | [_] | [_, _] | [_, _, _] | [_, _, _, _] => exact short (by simp [Opcode.format, Format.words])
    | n :: dz :: d1 :: f :: rd :: rest => exact .command _ _ rfl (he rfl) (hl rfl)

theorem commandLength_of_none {h : Word} (hs : selectRow h = none) : commandLength h = 1 := by
  simp only [commandLength, hs]

theorem commandLength_of_selectRow {h : Word} {r : Row} (hs : selectRow h = some r) :
    commandLength h = r.op.format.words := by
  simp only [commandLength, hs, format_of_mem r (selectRow_some hs).1]

/-- Every answer of the decoder is one of the list. -/
theorem decode_decodedAs (h : Word) (ws : List Word) : DecodedAs h ws (decode (h :: ws)) := by
  cases hs : selectRow h with
  | none => simpa only [decode, hs] using DecodedAs.badHeader (ws := ws) hs
  | some r =>
    rw [decode_of_selectRow hs]
    exact decodeOperands_decodedAs (headerWith_of_selectRow hs) (commandLength_of_selectRow hs) ws

/-- Settles O1: `decode_encode`, for every well-formed command. -/
theorem decodeOfEncode : Obligations.DecodeOfEncode := fun _ rest hi => decode_encode hi rest

/-- Settles O2: a command among the decoder's answers comes with the words it stands for. -/
theorem encodeOfDecode : Obligations.EncodeOfDecode := by
  intro ws rest i hd
  match ws with
  | [] => cases hd
  | h :: ws =>
    cases hd ▸ decode_decodedAs h ws with
    | command _ _ hi he _ => exact ⟨he, hi⟩

/-- Settles O5: each answer's own clause on its length, the other answers excluded. -/
theorem lengthDecidedByHeader : Obligations.LengthDecidedByHeader := by
  intro h ws
  have hd := decode_decodedAs h ws
  generalize decode (h :: ws) = d at hd ⊢
  cases hd with
  | command i rest hi he hl => exact ⟨⟨nofun, fun _ => by omega⟩, fun _ _ e => by cases e; exact hl, nofun, nofun⟩
  | badHeader hs =>
    have h1 := commandLength_of_none hs
    exact ⟨⟨nofun, fun _ => by omega⟩, nofun, nofun, fun _ _ e => by cases e; exact ⟨rfl, rfl, h1⟩⟩
  | badColour cw rest hc hl =>
    exact ⟨⟨nofun, fun _ => by omega⟩, nofun, fun _ _ e => by cases e; exact ⟨hl, hc⟩, nofun⟩
  | incomplete hl => exact ⟨⟨fun _ => hl, fun _ => rfl⟩, nofun, nofun, nofun⟩

/-! ### Illegal headers -/

theorem decode_badHeader_iff {h : Word} {ws : List Word} : decode (h :: ws) = .badHeader h ws ↔ selectRow h = none := by
  constructor
  · intro hd
    cases hd ▸ decode_decodedAs h ws with
    | badHeader hs => exact hs
  · intro hs
    simp only [decode, hs]

/-- Of the 24 upper bits every row tests all, and `rsv` for 0. -/
theorem selects_iff_fields {r : Row} (hr : r ∈ opcodeTable) (h : Word) :
    r.selects h = true ↔ h.extractLsb' 24 8 = r.pattern.extractLsb' 24 8 ∧ h.extractLsb' 8 16 = 0#16 ∧
      h.extractLsb' 0 8 &&& r.mask.extractLsb' 0 8 = r.pattern.extractLsb' 0 8 := by
  have upper : ∀ r ∈ opcodeTable, r.mask.extractLsb' 24 8 = BitVec.allOnes 8 ∧
      r.mask.extractLsb' 8 16 = BitVec.allOnes 16 ∧ r.pattern.extractLsb' 8 16 = 0#16 := by decide
  obtain ⟨hop, hrsv, hz⟩ := upper r hr
  rw [Row.selects, beq_iff_eq, masked_iff, hop, hrsv, hz, BitVec.and_allOnes, BitVec.and_allOnes]

/-- What the rows' tests of `sub` come to, mask by mask (30_encoding R46). -/
theorem sub_tests : ∀ sub : BitVec 8,
    sub &&& 0xFF#8 = sub ∧ (sub &&& 0xF8#8 = 0#8 ↔ sub.extractLsb' 3 5 = 0#5) ∧
    (sub &&& 0xFE#8 = 0#8 ↔ sub.extractLsb' 1 7 = 0#7) ∧
    (sub ≠ 0#8 ∧ sub ≠ 1#8 ∧ sub ≠ 2#8 ↔ sub.extractLsb' 2 6 ≠ 0#6 ∨ sub.extractLsb' 0 2 = 3#2) := by decide

/-- No row is selected because `rsv` or `op` is in no row, or because each row of `op` refuses `sub`. -/
theorem selectRow_eq_none_iff (h : Word) : selectRow h = none ↔ Machine.illegalHeader h := by
  have rows : selectRow h = none ↔ ∀ r ∈ opcodeTable, ¬ (h.extractLsb' 24 8 = r.pattern.extractLsb' 24 8 ∧
      h.extractLsb' 8 16 = 0#16 ∧ h.extractLsb' 0 8 &&& r.mask.extractLsb' 0 8 = r.pattern.extractLsb' 0 8) := by
    rw [selectRow, List.find?_eq_none]
    exact forall₂_congr fun r hr => not_congr (selects_iff_fields hr h)
  obtain ⟨s3, s2, s0, s1⟩ := sub_parts h
  rw [rows]
  simp only [Machine.illegalHeader, s3, s2, s0, s1]
  generalize h.extractLsb' 24 8 = op
  generalize h.extractLsb' 8 16 = rsv
  generalize h.extractLsb' 0 8 = sub
  obtain ⟨full, ord, flag, ctag⟩ := sub_tests sub
  by_cases hz : rsv = 0#16
  · by_cases hop : op ∈ [0x01#8, 0x02#8, 0x03#8, 0x04#8, 0x05#8, 0x10#8, 0x11#8, 0x12#8, 0x13#8]
    · simp only [List.mem_cons, List.not_mem_nil, or_false] at hop
      rcases hop with rfl | rfl | rfl | rfl | rfl | rfl | rfl | rfl | rfl <;>
        simp [opcodeTable, hz, full, ord, flag, ctag]
    · have ops : ∀ r ∈ opcodeTable, r.pattern.extractLsb' 24 8 ∈
          [0x01#8, 0x02#8, 0x03#8, 0x04#8, 0x05#8, 0x10#8, 0x11#8, 0x12#8, 0x13#8] := by decide
      exact iff_of_true (fun r hr hs => hop (hs.1 ▸ ops r hr)) (.inl hop)
  · exact iff_of_true (fun r _ hs => hz hs.2.1) (.inr (.inl hz))

/-- Settles O4: the decoder answers an illegal header exactly when no row is selected. -/
theorem illegalHeaderByFields : Obligations.IllegalHeaderByFields := fun h _ =>
  decode_badHeader_iff.trans (selectRow_eq_none_iff h)

end Sys2Proof
end

section
/-! PROOFS. The refused and the incomplete encodings as steps of the block (30_encoding R52, R53). -/

namespace Sys2Proof.Machine

/-- The step that refuses the illegal encoding of the word `w`, the words `rest` not consumed. -/
theorem step_illegal {s : State} {w : Word} {rest : List Word} (hp : s.port = .ready)
    (hd : decode (leadingWords s.inputs) = .badHeader w rest ∨ decode (leadingWords s.inputs) = .badColour w rest) :
    step s = .next (raise (.illegalCommand w) (s.withWords rest)) := by
  rw [step_ready hp]
  rcases hd with hd | hd <;> simp only [stepReady, hd]

/-- Putting back the words that stood behind those consumed leaves the tail of the inputs. -/
theorem withWords_tail {s : State} {ws : List Word} {tail : List Input} (hs : s.inputs = ws.map Input.word ++ tail) :
    s.withWords (leadingWords tail) = { s with inputs := tail } := by
  rw [State.withWords, hs, afterWords_append, leadingWords_afterWords]

/-- An illegal encoding that stands in the words `ws` is answered with an error and consumes these words. -/
theorem step_illegal_answersErr {s : State} {w : Word} {ws : List Word} {tail : List Input} (hp : s.port = .ready)
    (hs : s.inputs = ws.map Input.word ++ tail)
    (hd : ∀ rest, decode (ws ++ rest) = .badHeader w rest ∨ decode (ws ++ rest) = .badColour w rest) :
    AnswersErr (step s) { s with inputs := tail } (.illegalCommand w) := by
  have hl : leadingWords s.inputs = ws ++ leadingWords tail := by rw [hs, leadingWords_append]
  rw [step_illegal hp (hl ▸ hd (leadingWords tail)), withWords_tail hs]
  exact answersErr_raise _ _

/-- Settles O50: the decoder consumes the header alone. -/
theorem illegalHeaderAnswersError : Obligations.IllegalHeaderAnswersError := by
  intro s h tail hp hs hh
  exact step_illegal_answersErr (ws := [h]) hp hs fun rest => .inl ((illegalHeaderByFields h rest).mpr hh)

/-- Settles O51: the decoder refuses the colour word behind all words of its command. -/
theorem illegalColourAnswersError : Obligations.IllegalColourAnswersError := by
  intro s i cw tail hp hs hc hi
  refine step_illegal_answersErr hp hs fun rest => .inr ?_
  rcases hi with ⟨j, rfl | rfl⟩ | ⟨x, y, w, rfl | rfl⟩ <;> exact checkColour_reserved hc _ rest

/-- Settles O52: without a reset, a step of the adapter or a tick behind the words, waiting leaves the state alone. -/
theorem incompleteCommandWaits : Obligations.IncompleteCommandWaits := by
  intro s ws hp hs hd
  have hl : leadingWords s.inputs = ws := by simpa [hs, leadingWords] using leadingWords_append ws []
  have ha : afterWords s.inputs = [] := by simpa [hs, afterWords] using afterWords_append ws []
  rw [step_ready hp]
  simp only [stepReady, hl, hd, ha, idle]

/-! ### Channel Order codes -/

/-- Settles O18: the eight codes and the six orders, case by case. -/
theorem orderCodes : Obligations.OrderCodes := by
  have codes : ∀ (c : BitVec 3), ∀ o ∈ [ChannelOrder.rgb, .rbg, .grb, .gbr, .brg, .bgr],
      ChannelOrder.ofCode c = some o ↔ c = o.code := by decide
  refine ⟨fun c o => codes c o ?_, rfl⟩
  cases o <;> simp

end Sys2Proof.Machine
end

section
/-! PROOFS. Written commands and their words (30_encoding R47, R48, R55, R56). -/

namespace Sys2Proof.Machine

/-! ### Operands -/

theorem signedWord_of_fits {n : Int} (h0 : -2147483648 ≤ n) (h1 : n ≤ 2147483647) :
    signedWord n = some (BitVec.ofInt 32 n) :=
  if_pos ⟨h0, h1⟩

@[simp] theorem signedWord_toInt (x : Word) : signedWord x.toInt = some x := by
  have h0 := x.le_toInt
  have h1 := x.toInt_lt
  rw [signedWord_of_fits (by omega) (by omega), BitVec.ofInt_toInt]

@[simp] theorem unsignedWord_toNat (x : Word) : unsignedWord x.toNat = some x := by
  rw [unsignedWord, if_pos x.isLt, BitVec.ofNat_toNat, BitVec.setWidth_eq]

/-! ### Colours -/

@[simp] theorem colourWord_of_packed (v : Word24) : colourWord (.packed v) = 0#8 ++ v :=
  BitVec.setWidth_append_eq_right

@[simp] theorem colourWord_of_rgb (r g b : Byte) : colourWord (.rgb r g b) = 0#8 ++ r ++ g ++ b :=
  BitVec.setWidth_append_eq_right

@[simp] theorem colourWord_of_rgba (r g b a : Byte) : colourWord (.rgba r g b a) = a ++ r ++ g ++ b :=
  BitVec.setWidth_append_eq_right

/-- The bytes of a colour word laid out byte by byte. -/
theorem bytes_of_append (a r g b : Byte) :
    highByte (a ++ r ++ g ++ b) = a ∧ redByte (a ++ r ++ g ++ b) = r ∧ greenByte (a ++ r ++ g ++ b) = g ∧
      blueByte (a ++ r ++ g ++ b) = b := by
  have above {w n : Nat} (x : BitVec w) (y : Byte) : (x ++ y).extractLsb' (n + 8) 8 = x.extractLsb' n 8 :=
    (BitVec.extractLsb'_append_eq_of_le (Nat.le_add_left ..)).trans (by rw [Nat.add_sub_cancel])
  refine ⟨?_, ?_, ?_, BitVec.extractLsb'_append_eq_right⟩
  · exact (above _ b).trans ((above _ g).trans BitVec.extractLsb'_append_eq_left)
  · exact (above _ b).trans ((above _ g).trans BitVec.extractLsb'_append_eq_right)
  · exact (above _ b).trans BitVec.extractLsb'_append_eq_right

theorem colourWord_packed_clear (v : Word24) : highByteClear (colourWord (.packed v)) = true := by
  rw [highByteClear_iff, colourWord_of_packed]
  exact BitVec.extractLsb'_append_eq_left

theorem colourWord_rgb_clear (r g b : Byte) : highByteClear (colourWord (.rgb r g b)) = true := by
  rw [highByteClear_iff, colourWord_of_rgb]
  exact (bytes_of_append ..).1

/-! ### Lines -/

theorem setpxInstr_wellFormed (index : Word) (c : PixelColor) : (setpxInstr index c).wellFormed = true := by
  cases c with
  | packed v => exact colourWord_packed_clear v
  | rgb r g b => exact colourWord_rgb_clear r g b
  | rgba r g b a => rfl

theorem setpxmInstr_wellFormed (x y w : Word) (c : PixelColor) : (setpxmInstr x y w c).wellFormed = true := by
  cases c with
  | packed v => exact colourWord_packed_clear v
  | rgb r g b => exact colourWord_rgb_clear r g b
  | rgba r g b a => rfl

/-- The command of a line has no colour word but that of a colour, in the variant of its form. -/
theorem instr_wellFormed {l : AsmLine} {i : Instr} (h : l.instr = some i) : i.wellFormed = true := by
  cases l with
  | create n ord =>
    obtain ⟨_, -, rfl⟩ := Option.map_eq_some_iff.mp h
    rfl
  | setpx idx c | setled idx c =>
    obtain ⟨index, -, rfl⟩ := Option.map_eq_some_iff.mp h
    exact setpxInstr_wellFormed index c
  | setpxm x y w c | setledm x y w c =>
    simp only [AsmLine.instr, Option.bind_eq_bind, Option.bind_eq_some_iff, Option.pure_def, Option.some.injEq] at h
    obtain ⟨x, -, y, -, w, -, rfl⟩ := h
    exact setpxmInstr_wellFormed x y w c
  | init n ord dz d1 f rd =>
    simp only [AsmLine.instr, Option.bind_eq_bind, Option.bind_eq_some_iff, Option.pure_def, Option.some.injEq] at h
    obtain ⟨_, -, _, -, _, -, _, -, _, -, rfl⟩ := h
    rfl
  | setopt | encode | start | wait | cleanup => cases h; rfl

theorem instr_create {n : Int} (h0 : -2147483648 ≤ n) (h1 : n ≤ 2147483647) (ord : BitVec 3) :
    (AsmLine.create n ord).instr = some (.create ord (BitVec.ofInt 32 n)) := by
  simp only [AsmLine.instr, signedWord_of_fits h0 h1, Option.map_some]

theorem instr_init {n : Int} (h0 : -2147483648 ≤ n) (h1 : n ≤ 2147483647) (ord : BitVec 3) (dz d1 f rd : Word) :
    (AsmLine.init n ord dz.toNat d1.toNat f.toNat rd.toNat).instr =
      some (.init ord (BitVec.ofInt 32 n) dz d1 f rd) := by
  simp [AsmLine.instr, signedWord_of_fits h0 h1]

/-- SETPX and its alias SETLED (30_encoding R56). -/
theorem instr_setpx {idx : Int} (h0 : -2147483648 ≤ idx) (h1 : idx ≤ 2147483647) {line : PixelColor → AsmLine}
    (hl : line ∈ [AsmLine.setpx idx, AsmLine.setled idx]) (c : PixelColor) :
    (line c).instr = some (setpxInstr (BitVec.ofInt 32 idx) c) := by
  have hw := signedWord_of_fits h0 h1
  simp only [List.mem_cons, List.not_mem_nil, or_false] at hl
  rcases hl with rfl | rfl <;> simp only [AsmLine.instr, hw, Option.map_some]

/-- SETPXM and its alias SETLEDM (30_encoding R56). -/
theorem instr_setpxm {x y w : Word} {line : PixelColor → AsmLine}
    (hl : line ∈ [AsmLine.setpxm x.toInt y.toInt w.toInt, AsmLine.setledm x.toInt y.toInt w.toInt]) (c : PixelColor) :
    (line c).instr = some (setpxmInstr x y w c) := by
  simp only [List.mem_cons, List.not_mem_nil, or_false] at hl
  rcases hl with rfl | rfl <;> simp [AsmLine.instr]

/-- Settles O7: line by line; a colour comes back because its word is laid out as it is taken apart. -/
theorem writtenLinesStandForTheirCommands : Obligations.WrittenLinesStandForTheirCommands := by
  refine ⟨fun n ord h0 h1 => ⟨instr_create h0 h1 ord, instr_init h0 h1 ord⟩, fun idx h0 h1 line hl => ?_,
    fun x y w line hl => ?_, fun _ => rfl, rfl, rfl, rfl, rfl, fun _ _ => instr_wellFormed, fun v => ?_, fun r g b => ?_,
    fun r g b a => ?_⟩
  · simp only [instr_setpx h0 h1 hl, setpxInstr, colourWord_of_packed, colourWord_of_rgb, colourWord_of_rgba, implies_true,
      and_self]
  · simp only [instr_setpxm hl, setpxmInstr, colourWord_of_packed, colourWord_of_rgb, colourWord_of_rgba, implies_true,
      and_self]
  · rw [packedColor, colourWord_of_packed]
    exact congrArg PixelColor.packed BitVec.extractLsb'_append_eq_right
  · obtain ⟨-, hr, hg, hb⟩ := bytes_of_append 0#8 r g b
    rw [colourWord_of_rgb, structColor, hr, hg, hb]
  · obtain ⟨ha, hr, hg, hb⟩ := bytes_of_append a r g b
    rw [colourWord_of_rgba, alphaColor, ha, hr, hg, hb]

/-- Settles O8: an assembled line is the encoding of its well-formed command; the examples are computed. -/
theorem textAssemblesToOneCommand : Obligations.TextAssemblesToOneCommand := by
  refine ⟨fun text ws h => ?_, ?_⟩
  · simp only [assemble, Option.bind_eq_bind, Option.bind_eq_some_iff, Option.pure_def, Option.some.injEq] at h
    obtain ⟨line, -, i, hi, rfl⟩ := h
    have hw := instr_wellFormed hi
    exact ⟨i, by simpa using decode_encode hw [], hw⟩
  · decide

end Sys2Proof.Machine
end

section
/-! PROOFS. The Color Model: what each channel order makes of three bytes, that nothing is lost by it, and the word of
each form of slot (40_color_model). -/

namespace Sys2Proof.Machine

/-! ### Three bytes side by side -/

theorem channels_of_append (x y z : Byte) :
    (x ++ y ++ z).extractLsb' 16 8 = x ∧ (x ++ y ++ z).extractLsb' 8 8 = y ∧ (x ++ y ++ z).extractLsb' 0 8 = z :=
  ⟨(BitVec.extractLsb'_append_eq_of_le (Nat.le_add_left 8 8)).trans BitVec.extractLsb'_append_eq_left,
    (BitVec.extractLsb'_append_eq_of_le (Nat.le_refl 8)).trans BitVec.extractLsb'_append_eq_right,
    BitVec.extractLsb'_append_eq_right⟩

theorem append_of_channels (v : Word24) : v.extractLsb' 16 8 ++ v.extractLsb' 8 8 ++ v.extractLsb' 0 8 = v := by
  have upper : v.extractLsb' 16 8 ++ v.extractLsb' 8 8 = v.extractLsb' 8 16 :=
    BitVec.extractLsb'_append_extractLsb'_eq_extractLsb' rfl
  rw [upper]
  exact BitVec.extractLsb'_append_extractLsb'

/-- Bytes at the three offsets do not overlap (R68). -/
theorem shifted_or_eq_append (x y z : Byte) :
    x.setWidth 24 <<< 16 ||| y.setWidth 24 <<< 8 ||| z.setWidth 24 <<< 0 = x ++ y ++ z := by
  rw [BitVec.shiftLeft_zero, ← BitVec.setWidth_eq (x ++ y ++ z),
    BitVec.setWidth_append_append_eq_shiftLeft_setWidth_or]

/-! ### The six orders -/

theorem permute_rgb (r g b : Byte) : permute .rgb r g b = r ++ g ++ b := shifted_or_eq_append r g b

theorem permute_rbg (r g b : Byte) : permute .rbg r g b = r ++ b ++ g := by
  rw [← shifted_or_eq_append r b g, BitVec.or_assoc, BitVec.or_comm (b.setWidth 24 <<< 8), ← BitVec.or_assoc]; rfl

theorem permute_grb (r g b : Byte) : permute .grb r g b = g ++ r ++ b := by
  rw [← shifted_or_eq_append g r b, BitVec.or_comm (g.setWidth 24 <<< 16)]; rfl

theorem permute_gbr (r g b : Byte) : permute .gbr r g b = g ++ b ++ r := by
  rw [← shifted_or_eq_append g b r, BitVec.or_comm, ← BitVec.or_assoc]; rfl

theorem permute_brg (r g b : Byte) : permute .brg r g b = b ++ r ++ g := by
  rw [← shifted_or_eq_append b r g, BitVec.or_assoc, BitVec.or_comm]; rfl

theorem permute_bgr (r g b : Byte) : permute .bgr r g b = b ++ g ++ r := by
  rw [← shifted_or_eq_append b g r, BitVec.or_comm, BitVec.or_comm (b.setWidth 24 <<< 16), ← BitVec.or_assoc]; rfl

/-- Each channel is read back at its own offset. -/
theorem channels_of_permute (o : ChannelOrder) (r g b : Byte) :
    (permute o r g b).extractLsb' o.redOffset 8 = r ∧ (permute o r g b).extractLsb' o.greenOffset 8 = g ∧
      (permute o r g b).extractLsb' o.blueOffset 8 = b := by
  cases o with
  | rgb => rw [permute_rgb]; exact channels_of_append r g b
  | rbg => rw [permute_rbg]; obtain ⟨hr, hb, hg⟩ := channels_of_append r b g; exact ⟨hr, hg, hb⟩
  | grb => rw [permute_grb]; obtain ⟨hg, hr, hb⟩ := channels_of_append g r b; exact ⟨hr, hg, hb⟩
  | gbr => rw [permute_gbr]; obtain ⟨hg, hb, hr⟩ := channels_of_append g b r; exact ⟨hr, hg, hb⟩
  | brg => rw [permute_brg]; obtain ⟨hb, hr, hg⟩ := channels_of_append b r g; exact ⟨hr, hg, hb⟩
  | bgr => rw [permute_bgr]; obtain ⟨hb, hg, hr⟩ := channels_of_append b g r; exact ⟨hr, hg, hb⟩

/-- Permuting the bytes at the three offsets puts each back where it was. -/
theorem permute_of_channels (o : ChannelOrder) (w : Word24) :
    permute o (w.extractLsb' o.redOffset 8) (w.extractLsb' o.greenOffset 8) (w.extractLsb' o.blueOffset 8) = w := by
  cases o with
  | rgb => exact (permute_rgb ..).trans (append_of_channels w)
  | rbg => exact (permute_rbg ..).trans (append_of_channels w)
  | grb => exact (permute_grb ..).trans (append_of_channels w)
  | gbr => exact (permute_gbr ..).trans (append_of_channels w)
  | brg => exact (permute_brg ..).trans (append_of_channels w)
  | bgr => exact (permute_bgr ..).trans (append_of_channels w)

/-- Settles O10: the bytes at the offsets of an order are an inverse of `permute` on both sides. -/
theorem permuteIsBijective : Obligations.PermuteIsBijective := by
  refine fun o => ⟨fun r g b r' g' b' h => ?_, fun w => ⟨_, _, _, permute_of_channels o w⟩⟩
  obtain ⟨hr, hg, hb⟩ := channels_of_permute o r g b
  obtain ⟨hr', hg', hb'⟩ := channels_of_permute o r' g' b'
  rw [h] at hr hg hb
  exact ⟨hr.symm.trans hr', hg.symm.trans hg', hb.symm.trans hb'⟩

/-- Settles O9: order by order for all bytes; the printed words are computed. -/
theorem permuteByOrder : Obligations.PermuteByOrder :=
  ⟨fun r g b => ⟨permute_rgb r g b, permute_rbg r g b, permute_grb r g b, permute_gbr r g b, permute_brg r g b,
    permute_bgr r g b⟩, permute_of_channels .rgb, by decide, by decide⟩

@[simp] theorem permute_black (o : ChannelOrder) : permute o 0#8 0#8 0#8 = 0#24 := by cases o <;> decide

/-! ### Alpha -/

@[simp] theorem scale_opaque (c : Byte) : scale c 255#8 = c := BitVec.mul_one c

theorem scale_of_ne {a : Byte} (ha : a ≠ 255#8) (c : Byte) : scale c a = 0#8 := by
  have hlt : a < 255#8 := by bv_omega
  rw [scale, BitVec.udiv_eq_zero_iff_eq_zero_or_lt.mpr (.inr hlt), BitVec.mul_zero]

/-- Settles O11: the factor is 1 at full alpha and 0 below, so nothing wraps. -/
theorem alphaScaleIsAllOrNothing : Obligations.AlphaScaleIsAllOrNothing := by
  intro c a
  by_cases ha : a = 255#8
  · subst ha
    simp
  · have hlt : a.toNat < 255 := by bv_omega
    simp [scale_of_ne ha, ha, Nat.div_eq_of_lt hlt]

/-! ### The word of a slot -/

theorem wordOfSlot_packed_off (v : Word24) (o : ChannelOrder) :
    wordOfSlot (.packed v) o false = permute o (v.extractLsb' 16 8) (v.extractLsb' 8 8) (v.extractLsb' 0 8) := rfl

theorem wordOfSlot_packed_on (v : Word24) (o : ChannelOrder) : wordOfSlot (.packed v) o true = v := rfl

theorem wordOfSlot_rgb (r g b : Byte) (o : ChannelOrder) (opt : Bool) :
    wordOfSlot (.rgb r g b) o opt = permute o r g b := rfl

theorem wordOfSlot_rgba (r g b a : Byte) (o : ChannelOrder) (opt : Bool) :
    wordOfSlot (.rgba r g b a) o opt = permute o (scale r a) (scale g a) (scale b a) := rfl

theorem wordOfSlot_packed_rgb (v : Word24) (opt : Bool) : wordOfSlot (.packed v) .rgb opt = v := by
  cases opt with
  | false => exact permute_of_channels .rgb v
  | true => rfl

theorem wordOfSlot_black (o : ChannelOrder) (opt : Bool) : wordOfSlot (.packed 0#24) o opt = 0#24 := by
  cases opt with
  | false => exact permute_black o
  | true => rfl

theorem wordOfSlot_opaque (r g b : Byte) (o : ChannelOrder) (opt : Bool) :
    wordOfSlot (.rgba r g b 255#8) o opt = wordOfSlot (.rgb r g b) o opt := by
  simp only [wordOfSlot_rgba, wordOfSlot_rgb, scale_opaque]

theorem wordOfSlot_translucent {a : Byte} (ha : a ≠ 255#8) (r g b : Byte) (o : ChannelOrder) (opt : Bool) :
    wordOfSlot (.rgba r g b a) o opt = 0#24 := by
  simp only [wordOfSlot_rgba, scale_of_ne ha, permute_black]

/-- Settles O12: with the flag on the word is the value, so the two agree where `permute` gives the value back. -/
theorem packedSlotWord : Obligations.PackedSlotWord := by
  refine ⟨fun v o => ⟨wordOfSlot_packed_off v o, wordOfSlot_packed_on v o⟩, fun v => wordOfSlot_packed_rgb v false,
    wordOfSlot_black, fun v o => ?_, by decide, by decide⟩
  rw [wordOfSlot_packed_on, wordOfSlot_packed_off]
  constructor
  · exact fun h => .inr h.symm
  · rintro (rfl | h)
    · exact (permute_of_channels .rgb v).symm
    · exact h.symm

/-- Settles O13: RGB order lays the channels side by side, where `unpack` finds them. -/
theorem structSlotWord : Obligations.StructSlotWord := by
  refine fun r g b o opt => ⟨wordOfSlot_rgb r g b o opt, ?_, rfl⟩
  obtain ⟨hr, hg, hb⟩ := channels_of_permute .rgb r g b
  exact Prod.ext hr (Prod.ext hg hb)

/-- Settles O14: full alpha leaves each channel, any other alpha makes each 0, which every order keeps. -/
theorem alphaSlotWord : Obligations.AlphaSlotWord := by
  refine fun r g b a o opt => ⟨wordOfSlot_rgba r g b a o opt, ?_, ?_, by decide, by decide⟩
  · split
    next ha => rw [ha, wordOfSlot_opaque]
    next ha => exact wordOfSlot_translucent ha r g b o opt
  · obtain ⟨ha, hr, hg, hb⟩ := bytes_of_append a r g b
    rw [alphaColor, ha, hr, hg, hb]

/-- Settles O15: the word of each form names what it reads; opaque red under RGB and GRB is where the rest differs. -/
theorem flagAndOrderReadByTag : Obligations.FlagAndOrderReadByTag := by
  refine ⟨fun r g b o => ?_, fun r g b a o => ?_, fun v o o' => ?_, ⟨0xFF0000, .grb, by decide⟩,
    ⟨0xFF0000, .rgb, .grb, by decide⟩, ⟨0xFF, 0, 0, .rgb, .grb, by decide⟩, ⟨0xFF, 0, 0, 0xFF, .rgb, .grb, by decide⟩⟩
  · rw [wordOfSlot_rgb, wordOfSlot_rgb]
  · rw [wordOfSlot_rgba, wordOfSlot_rgba]
  · rw [wordOfSlot_packed_on, wordOfSlot_packed_on]

end Sys2Proof.Machine
end

section
/-! PROOFS. The frame an encode delivers, byte by byte (42_encode_serializer R100, R101). -/

namespace Sys2Proof.Machine

@[simp] theorem encodedFrame_length (s : State) : s.encodedFrame.length = 3 * s.num :=
  serializePrefix_length s s.num

/-- The three bytes of slot `i`, most significant first. -/
theorem frameByte_of_slot (s : State) (i : Nat) :
    s.frameByte (3 * i) = (s.slotWord i).extractLsb' 16 8 ∧
    s.frameByte (3 * i + 1) = (s.slotWord i).extractLsb' 8 8 ∧
    s.frameByte (3 * i + 2) = (s.slotWord i).extractLsb' 0 8 := by
  have byte (r : Nat) (hr : r < 3) :
      s.frameByte (3 * i + r) = (s.slotWord i).extractLsb' (8 * (2 - r)) 8 := by
    have hd : (3 * i + r) / 3 = i := by omega
    have hm : (3 * i + r) % 3 = r := by omega
    rw [State.frameByte, hd, hm, BitVec.setWidth_ushiftRight_eq_extractLsb]
  exact ⟨byte 0 (by decide), byte 1 (by decide), byte 2 (by decide)⟩

/-- After `n` turns of R100's loop the bytes of the first `n` slots stand. -/
theorem serializePrefix_byte (s : State) {n k : Nat} (hn : n ≤ s.num) (hk : k < 3 * n) :
    (serializePrefix s n).frame[k]? = some (s.frameByte k) := by
  induction n with
  | zero => omega
  | succ n ih =>
    rw [serializePrefix_succ, serializeSlot]
    rcases Nat.lt_or_ge k (3 * n) with hlt | hge
    · rw [memWrite_of_outside _ _ _ _ (.inl hlt), ih (by omega) hlt]
    · obtain ⟨h0, h1, h2⟩ := memWrite_inside (serializePrefix s n).frame (3 * n) (s.slotWord n) (by simp; omega)
      obtain ⟨b0, b1, b2⟩ := frameByte_of_slot s n
      obtain rfl | rfl | rfl : k = 3 * n ∨ k = 3 * n + 1 ∨ k = 3 * n + 2 := by omega
      · rw [h0, b0]
      · rw [h1, b1]
      · rw [h2, b2]

/-- R101: byte `k` of the frame in closed form. -/
theorem encodedFrame_byte (s : State) {k : Nat} (hk : k < 3 * s.num) :
    s.encodedFrame[k]? = some (s.frameByte k) :=
  serializePrefix_byte s (Nat.le_refl _) hk

/-- Two buffers of one size frame alike wherever the slots behind the byte have the same word. -/
theorem encodedFrame_byte_congr {s t : State} (hn : t.num = s.num) {k : Nat}
    (hw : t.slotWord (k / 3) = s.slotWord (k / 3)) : t.encodedFrame[k]? = s.encodedFrame[k]? := by
  rcases Nat.lt_or_ge k (3 * s.num) with hk | hk
  · rw [encodedFrame_byte s hk, encodedFrame_byte t (hn ▸ hk), State.frameByte, State.frameByte, hw]
  · rw [List.getElem?_eq_none (by simpa [hn] using hk), List.getElem?_eq_none (by simpa using hk)]

end Sys2Proof.Machine
end

section
/-! PROOFS. The Sequence Buffer commands: constructing, setting one slot, the flag (41_buffer_commands). -/

namespace Sys2Proof.Machine

/-! ### The shared checks, where they fail -/

theorem require_answersErr {c : Prop} [Decidable c] (h : ¬ c) (e : Err) (s : State) (k : Out) :
    AnswersErr (require c e s k) s e := by
  rw [require_neg h]; exact answersErr_raise e s

theorem requireBuffer_answersErr {s : State} (hl : s.life = .empty) (k : Out) :
    AnswersErr (requireBuffer s k) s (.illegalState .empty) := by
  rw [← hl]; exact require_answersErr (not_not_intro hl) _ s k

/-- The colour-word check of a command is the decoder's (41_buffer_commands R85, 30_encoding R52). -/
theorem requireColour_eq (cw : Word) (s : State) (k : Out) :
    requireColour cw s k = require (highByteClear cw = true) (.illegalCommand cw) s k := by
  unfold requireColour require; exact if_congr (beq_iff_eq).symm rfl rfl

theorem requireColour_answersErr {cw : Word} (h : highByteClear cw = false) (s : State) (k : Out) :
    AnswersErr (requireColour cw s k) s (.illegalCommand cw) := by
  rw [requireColour_eq]; exact require_answersErr (by simp [h]) _ s k

/-! ### The constructors -/

theorem ofCode_eq_none_iff (c : BitVec 3) : ChannelOrder.ofCode c = none ↔ 5 < c.toNat := by
  revert c; decide

/-- Settles O16: the checks of a constructor pass, and CREATE's own part makes the buffer. -/
theorem createMakesBlackBuffer : Obligations.CreateMakesBlackBuffer := by
  intro s ord n o hl ho h0 hn
  refine ⟨respond .ok { s.createBuffer o n.toInt.toNat with life := .core }, ?_, rfl,
    fun i _ => Memory.read_clear i⟩
  exact withConstructor_ok hl ho h0 hn fun o k => .next (respond .ok { s.createBuffer o k with life := .core })

/-- The refusals of `withConstructor`, in the order of 60_exceptions R143. -/
theorem withConstructor_refusals (ord : BitVec 3) (n : Int) (s : State) (k : ChannelOrder → Nat → Out) :
    (s.life ≠ .empty → AnswersErr (withConstructor ord n s k) s (.illegalState s.life)) ∧
    (s.life = .empty → 5 < ord.toNat → AnswersErr (withConstructor ord n s k) s (.configError ord.toNat)) ∧
    (s.life = .empty → ord.toNat ≤ 5 → n < 0 ∨ (s.cfg.nMax.val : Int) < n →
      AnswersErr (withConstructor ord n s k) s (.configError n)) := by
  unfold withConstructor
  refine ⟨fun hl => require_answersErr hl _ s _, fun hl ho => ?_, fun hl ho hn => ?_⟩ <;> rw [require_pos hl]
  · rw [(ofCode_eq_none_iff ord).mpr ho]
    exact answersErr_raise _ s
  · cases hc : ChannelOrder.ofCode ord with
    | none => exact absurd ((ofCode_eq_none_iff ord).mp hc) (by omega)
    | some o => exact require_answersErr (by omega) _ s _

/-- Settles O17: CREATE and INIT are the shared checks before what each does with a legal order and count. -/
theorem constructorRefusals : Obligations.ConstructorRefusals := by
  rintro s ord n dz d1 f rd i (rfl | rfl)
  · simp only [exec, execCreate]; exact withConstructor_refusals ord (signed n) s _
  · simp only [exec, execInit]; exact withConstructor_refusals ord (signed n) s _

/-! ### Setting one slot -/

/-- A set inside the buffer writes its slot (R96). -/
theorem setPixel_writesSlot {s : State} {index : Int} (hm : s.slots.wf) (hl : s.life ≠ .empty) (h0 : 0 ≤ index)
    (hn : index < s.num) (c : PixelColor) : WritesSlot (setPixel index c s) s index.toNat c := by
  refine ⟨_, setPixel_ok hl h0 hn c, rfl, ?_, fun j hj => Memory.read_write_ne _ hj.symm c⟩
  exact (Memory.read_write hm _ _ c).trans (if_pos rfl)

theorem colourSet_writesSlot {cw : Word} (hc : highByte cw = 0#8) {s : State} {index : Int} (hm : s.slots.wf)
    (hl : s.life ≠ .empty) (h0 : 0 ≤ index) (hn : index < s.num) (c : PixelColor) :
    WritesSlot (requireColour cw s (setPixel index c s)) s index.toNat c := by
  rw [requireColour, require_pos hc]; exact setPixel_writesSlot hm hl h0 hn c

/-- Settles O19: the three forms set the slot at the signed index operand. -/
theorem setpxReplacesOneSlot : Obligations.SetpxReplacesOneSlot := by
  intro s index cw hm hl h0 hn
  exact ⟨fun hc => ⟨colourSet_writesSlot hc hm hl h0 hn (packedColor cw),
    colourSet_writesSlot hc hm hl h0 hn (structColor cw)⟩, setPixel_writesSlot hm hl h0 hn (alphaColor cw)⟩

/-- Settles O20: the three forms set the slot at the matrix index. -/
theorem setpxmReplacesSlotAtMatrixIndex : Obligations.SetpxmReplacesSlotAtMatrixIndex := by
  intro s x y w cw hm hl h0 hn
  exact ⟨fun hc => ⟨colourSet_writesSlot hc hm hl h0 hn (packedColor cw),
    colourSet_writesSlot hc hm hl h0 hn (structColor cw)⟩, setPixel_writesSlot hm hl h0 hn (alphaColor cw)⟩

/-- What a set command is, whichever of the six: the colour-word check before the write at its final index. -/
theorem exec_set {i : Instr} {index : Int} (hi : pixelIndex i = some index) (s : State) :
    ∃ c cw, exec i s = require (i.wellFormed = true) (.illegalCommand cw) s (setPixel index c s) := by
  cases i with
  | setpxP j cw => cases hi; exact ⟨packedColor cw, cw, requireColour_eq cw s _⟩
  | setpxC j cw => cases hi; exact ⟨structColor cw, cw, requireColour_eq cw s _⟩
  | setpxA j cw => cases hi; exact ⟨alphaColor cw, cw, (require_pos rfl _ s _).symm⟩
  | setpxmP x y w cw => cases hi; exact ⟨packedColor cw, cw, requireColour_eq cw s _⟩
  | setpxmC x y w cw => cases hi; exact ⟨structColor cw, cw, requireColour_eq cw s _⟩
  | setpxmA x y w cw => cases hi; exact ⟨alphaColor cw, cw, (require_pos rfl _ s _).symm⟩
  | create | setopt | encode | init | start | wait | cleanup => cases hi

theorem setPixel_answersErr_of_outside {s : State} {index : Int} (hl : s.life ≠ .empty)
    (ho : index < 0 ∨ s.num ≤ index) (c : PixelColor) :
    AnswersErr (setPixel index c s) s (.boundsViolation index) := by
  rw [setPixel, requireBuffer, require_pos hl]; exact require_answersErr (by omega) _ s _

/-- Settles O21: the colour word is checked by the form, the buffer and the index by the shared write. -/
theorem setRefusals : Obligations.SetRefusals := by
  intro s i index hi
  obtain ⟨c, cw, h⟩ := exec_set hi s
  refine ⟨?_, fun hw hl => ?_, fun hw hl ho => ?_⟩
  · rintro cw hw (⟨j, rfl | rfl⟩ | ⟨x, y, w, rfl | rfl⟩) <;> exact requireColour_answersErr hw s _
  · rw [h, require_pos hw]; exact requireBuffer_answersErr hl _
  · rw [h, require_pos hw]; exact setPixel_answersErr_of_outside hl ho c

/-- A set that answers `OK` has written its slot. -/
theorem exec_set_ok {i : Instr} {index : Int} (hi : pixelIndex i = some index) {s t : State}
    (h : exec i s = .next t) (ht : t.trace = s.trace ++ [.response .ok]) :
    0 ≤ index ∧ index < s.num ∧ ∃ c, t = respond .ok { s with slots := s.slots.write index.toNat c } := by
  have not_raised (e : Err) (he : t = raise e s) : False := by simp [he] at ht
  obtain ⟨c, cw, hx⟩ := exec_set hi s
  rw [hx] at h
  obtain he | ⟨-, h⟩ := require_next h
  · exact (not_raised _ he).elim
  · rcases setPixel_cases index c s with ⟨e, -, h'⟩ | ⟨-, h0, hn, h'⟩ <;> rw [h'] at h <;> injection h with h
    · exact (not_raised e h.symm).elim
    · exact ⟨h0, hn, c, h.symm⟩

/-- Settles O23: slots other than the written one read alike, and so do their bytes of the frame. -/
theorem setTouchesOneSlotOnly : Obligations.SetTouchesOneSlotOnly := by
  intro s t i index hi h ht
  obtain ⟨h0, hn, c, rfl⟩ := exec_set_ok hi h ht
  have other (j : Nat) (hj : (j : Int) ≠ index) : (s.slots.write index.toNat c).read j = s.slots.read j :=
    Memory.read_write_ne _ (by omega) c
  refine ⟨h0, hn, rfl, other, fun k hk => encodedFrame_byte_congr ?_ ?_⟩
  · rfl
  · exact congrArg (wordOfSlot · s.ord s.opt) (other (k / 3) (by omega))

/-! ### Matrix Addressing (R93) -/

/-- R93: two signed operands and a product of two fit in 64 bits. -/
theorem matrixIndex_bounds (x y w : Word) :
    -(2 ^ 62) - 2 ^ 31 ≤ matrixIndex x y w ∧ matrixIndex x y w ≤ 2 ^ 62 + 2 ^ 31 := by
  have magnitude (v : Word) : |v.toInt| ≤ 2 ^ 31 := abs_le.mpr ⟨v.le_toInt, Int.le_of_lt v.toInt_lt⟩
  have product : |y.toInt * w.toInt| ≤ 2 ^ 31 * 2 ^ 31 := by
    rw [abs_mul]; exact mul_le_mul (magnitude y) (magnitude w) (abs_nonneg _) (by decide)
  have hx := abs_le.mp (magnitude x)
  have hp := abs_le.mp product
  simp only [matrixIndex, signed]
  omega

theorem signed_ofInt {n : Int} (h0 : 0 ≤ n) (h1 : n < 2 ^ 31) : signed (BitVec.ofInt 32 n) = n :=
  BitVec.toInt_ofInt_eq_self (by decide) (by omega) h1

/-- Settles O22: a set looks at its operands only through the final index, and one of 31 bits is a signed operand. -/
theorem matrixSetIsIndexedSet : Obligations.MatrixSetIsIndexedSet := by
  refine ⟨fun x y w => ⟨rfl, matrixIndex_bounds x y w⟩, fun s x y w cw h0 h1 => ?_⟩
  have same : matrixIndex x y w = signed (BitVec.ofInt 32 (y.toInt * w.toInt + x.toInt)) := (signed_ofInt h0 h1).symm
  simp only [exec, execSetpxP, execSetpxC, execSetpxA, execSetpxmP, execSetpxmC, execSetpxmA, same, and_self]

/-! ### SETOPT, and the printed words -/

/-- Settles O25: with a buffer the check lets the write through, without one it refuses. -/
theorem setoptWritesFlag : Obligations.SetoptWritesFlag := by
  refine ⟨fun s flag => ⟨fun hl => ?_, fun hl => requireBuffer_answersErr hl _⟩, by decide, by decide⟩
  exact require_pos hl _ s _

/-- Settles O6: the decoder takes each line of words to its command. -/
theorem exampleWordsDecode : Obligations.ExampleWordsDecode := by
  unfold Obligations.ExampleWordsDecode
  decide

end Sys2Proof.Machine
end

section
/-! PROOFS. ENCODE: what its frame is, when a slot changes, and byte by byte (42_encode_serializer R100 to R107). -/

namespace Sys2Proof.Machine

/-! ### The frame in closed form -/

/-- R101: the frame is its bytes in order. -/
theorem encodedFrame_eq (s : State) : s.encodedFrame = (List.range (3 * s.num)).map s.frameByte := by
  refine List.ext_getElem (by simp) fun k hk _ => ?_
  rw [encodedFrame_length] at hk
  rw [List.getElem_map, List.getElem_range]
  exact Option.some_injective _ ((List.getElem?_eq_getElem _).symm.trans (encodedFrame_byte s hk))

/-- R100: with a buffer the lifecycle check lets ENCODE deliver its frame. -/
theorem exec_encode {s : State} (hl : s.life ≠ .empty) :
    exec .encode s = .next { s with scan := 0, trace := s.trace ++ [.frame s.encodedFrame, .response .ok] } := by
  have frame_then_ok : s.trace ++ [.frame s.encodedFrame, .response .ok] =
      s.trace ++ [.frame s.encodedFrame] ++ [.response .ok] := by simp
  rw [frame_then_ok]
  exact require_pos hl _ s _

/-- Settles O26: the frame is the encoded one, whose bytes are known in closed form. -/
theorem encodeDeliversFrame : Obligations.EncodeDeliversFrame := fun s hl =>
  ⟨s.encodedFrame, exec_encode hl, encodedFrame_length s, fun _ hk => encodedFrame_byte s hk⟩

/-- Settles O27: the lifecycle check refuses, or the frame has three bytes for each of no slots. -/
theorem encodeOfNoneAndOfEmpty : Obligations.EncodeOfNoneAndOfEmpty := by
  refine fun s => ⟨fun hl => requireBuffer_answersErr hl _, fun hl hn => ?_⟩
  have no_byte : s.encodedFrame = [] := List.eq_nil_of_length_eq_zero (by simp [hn])
  rw [exec_encode hl, no_byte]

/-! ### A fresh buffer -/

/-- A constructor that left a buffer behind raised nothing. -/
theorem withConstructor_made {ord : BitVec 3} {n : Int} {s t : State} {k : ChannelOrder → Nat → Out}
    (hl : s.life = .empty) (h : withConstructor ord n s k = .next t) (ht : t.life ≠ .empty) :
    0 ≤ n ∧ ∃ o, k o n.toNat = .next t := by
  rcases withConstructor_cases ord n s k with ⟨e, -, h'⟩ | ⟨o, -, -, h0, -, h'⟩ <;> rw [h'] at h
  · injection h with h; subst h; exact absurd hl ht
  · exact ⟨h0, o, h⟩

/-- A constructor that made a buffer made one of the size asked for, every slot black (R86, R106). -/
theorem constructor_makes_black {s t : State} {ord : BitVec 3} {n dz d1 f rd : Word} {i : Instr}
    (hi : i = .create ord n ∨ i = .init ord n dz d1 f rd) (hl : s.life = .empty) (h : exec i s = .next t)
    (ht : t.life ≠ .empty) : (t.num : Int) = n.toInt ∧ t.slots = Memory.clear := by
  rcases hi with rfl | rfl
  · change execCreate ord n s = _ at h
    obtain ⟨h0, o, h⟩ := withConstructor_made hl h ht
    injection h with h; subst h
    exact ⟨Int.toNat_of_nonneg h0, rfl⟩
  · change execInit ord n dz d1 f rd s = _ at h
    obtain ⟨h0, o, h⟩ := withConstructor_made hl h ht
    rw [(initCalls_effect h).1.frame]
    exact ⟨Int.toNat_of_nonneg h0, rfl⟩

/-- A black buffer encodes to zeros, whatever its order and flag. -/
theorem encodedFrame_of_clear {s : State} (hs : s.slots = Memory.clear) :
    s.encodedFrame = List.replicate (3 * s.num) 0#8 := by
  have black (i : Nat) : s.slotWord i = 0#24 := by
    rw [State.slotWord, State.slot, hs, Memory.read_clear]; exact wordOfSlot_black _ _
  have zero (k : Nat) : s.frameByte k = 0#8 := by simp [State.frameByte, black]
  simp [encodedFrame_eq, List.eq_replicate_iff, zero]

/-- Settles O28: what the constructor leaves is all that the frame depends on. -/
theorem freshBufferEncodesToZeros : Obligations.FreshBufferEncodesToZeros := by
  intro s t u ord n dz d1 f rd i hi hl h ht hu hnum hslots
  obtain ⟨hn, hblack⟩ := constructor_makes_black hi hl h ht
  have size : n.toInt.toNat = u.num := by omega
  refine ⟨hn, ?_⟩
  rw [exec_encode hu, encodedFrame_of_clear (hslots.trans hblack), size]

/-! ### Two frames around one set -/

/-- Settles O29: ENCODE changes nothing a frame depends on, and the set only the bytes of its slot. -/
theorem framesDifferInOneSlotOnly : Obligations.FramesDifferInOneSlotOnly := by
  intro s s₁ s₂ s₃ i index hi hl h₁ hset htr h₃
  obtain rfl := Host.Outcome.next.inj ((exec_encode hl).symm.trans h₁)
  obtain ⟨-, -, only_slots, -, agree⟩ := setTouchesOneSlotOnly _ s₂ i index hi hset htr
  have buffer : s₂.life ≠ .empty := by rw [only_slots]; exact hl
  have size : s₂.num = s.num := by rw [only_slots]
  obtain rfl := Host.Outcome.next.inj ((exec_encode buffer).symm.trans h₃)
  refine ⟨s.encodedFrame, s₂.encodedFrame, rfl, rfl, ?_, fun k hk => (agree k hk).symm⟩
  rw [encodedFrame_length, encodedFrame_length, size]

/-! ### Byte by byte -/

/-- After `k` micro-steps the first `k` bytes stand (R105, 10_state R21). -/
theorem microRun_eq (s : State) {k : Nat} (hk : k ≤ 3 * s.num) :
    microRun s k = { frame := (List.range k).map s.frameByte, scan := k } := by
  induction k with
  | zero => rfl
  | succ k ih =>
    rw [microRun, ih (by omega), microStep, if_pos (Nat.lt_of_succ_le hk), List.range_succ, List.map_append]
    rfl

/-- Settles O30: the bytes that stand are counted by `scan`, and all of them are the frame in closed form. -/
theorem microStepsDeliverTheFrame : Obligations.MicroStepsDeliverTheFrame := by
  intro s hl
  have whole := microRun_eq s (Nat.le_refl (3 * s.num))
  refine ⟨fun k hk => ?_, ?_, ?_⟩
  · simp [microRun_eq s hk]
  · rw [exec_encode hl, encodedFrame_eq, whole]
  · rw [whole, microStep, if_neg (by simp)]

end Sys2Proof.Machine
end

section
/-! PROOFS. A command piece by piece comes to where it comes in one step (42_encode_serializer R105,
70_reset_and_hazards R172). -/

namespace Sys2Proof.Machine

/-! ### The outcome of a step followed by further steps -/

/-- The outcome `o` and, where there is a next state, at most `n` further steps come to `o'`. -/
def ComesTo (n : Nat) : Out → Out → Prop
  | .next t, o' => ∃ m ≤ n, steps m t = o'
  | o, o' => o = o'

theorem comesTo_self (n : Nat) (o : Out) : ComesTo n o o := by
  cases o with
  | next t => exact ⟨0, n.zero_le, rfl⟩
  | fault r => rfl
  | refused r => rfl

/-- A step first and then at most `n` further ones. -/
theorem ComesTo.exists_steps {n : Nat} {s : State} {o : Out} (h : ComesTo n (step s) o) :
    ∃ m, 0 < m ∧ m ≤ n + 1 ∧ steps m s = o := by
  cases hs : step s with
  | next t =>
    rw [hs] at h
    obtain ⟨m, hm, h⟩ := h
    exact ⟨m + 1, m.succ_pos, Nat.succ_le_succ hm, by rw [steps, hs]; exact h⟩
  | fault r => exact nomatch r
  | refused r => rw [hs] at h; exact ⟨1, by simp, by simp, by rw [steps, hs]; exact h⟩

theorem ComesTo.mono {n m : Nat} {o o' : Out} (h : ComesTo n o o') (hn : n ≤ m) : ComesTo m o o' := by
  cases o with
  | next t => obtain ⟨j, hj, h⟩ := h; exact ⟨j, hj.trans hn, h⟩
  | fault r => exact h
  | refused r => exact h

/-- Nothing interrupts the command the block is inside of: no reset and no step of the adapter comes next, and no further
`tick` is taken. -/
def Undisturbed (s : State) : Prop := s.inputs = [] ∨ ∃ w rest, s.inputs = .word w :: rest

theorem step_undisturbed {s : State} (hq : Undisturbed s) (hp : s.port ≠ .ready) : step s = advance s := by
  rw [step_within hp, stepWithin]
  rcases hq with hi | ⟨w, rest, hi⟩ <;> rw [hi]

/-- Inside a command one of the steps is its next piece. -/
theorem comesTo_advance {n : Nat} {s : State} {o : Out} (hq : Undisturbed s) (hp : s.port ≠ .ready)
    (h : ComesTo n (advance s) o) : ComesTo (n + 1) (.next s) o := by
  rw [← step_undisturbed hq hp] at h
  obtain ⟨m, -, hm, h⟩ := h.exists_steps
  exact ⟨m, hm, h⟩

/-! ### Checks stand before both -/

theorem comesTo_require {n : Nat} {c : Prop} [Decidable c] {k k' : Out} (h : ComesTo n k k') (e : Err) (s : State) :
    ComesTo n (require c e s k) (require c e s k') := by
  by_cases hc : c
  · rwa [require_pos hc, require_pos hc]
  · rw [require_neg hc, require_neg hc]; exact comesTo_self n _

theorem comesTo_withConstructor {n : Nat} {k k' : ChannelOrder → Nat → Out} (h : ∀ o m, ComesTo n (k o m) (k' o m))
    (ord : BitVec 3) (v : Int) (s : State) : ComesTo n (withConstructor ord v s k) (withConstructor ord v s k') := by
  refine comesTo_require ?_ _ s
  cases ChannelOrder.ofCode ord with
  | none => exact comesTo_self n _
  | some o => exact comesTo_require (h o _) _ s

/-! ### A call and its answer -/

/-- A state between commands is its own end of a command (10_state R21). -/
theorem close_eq_self {s : State} (hp : s.port = .ready) (hf : s.frame = []) (hn : s.scan = 0) : s.close = s := by
  rw [State.close, ← hp, ← hf, ← hn]

/-- A call that is issued, and its answer taken in the next piece, come to the call made at once, if what follows the answer
does.  Only an `awaitCompletion` can stay without an answer, and no frame stands inside a WAIT. -/
theorem issue_comesTo {n : Nat} {c : AdpCall} {s : State} {k : State → Out} (hq : Undisturbed s)
    (hc : c = .awaitCompletion → s.close = s)
    (hk : ∀ a, ComesTo n (afterAnswer c { s.close.emit (.call c) with adapter := a })
      (k { s.close.emit (.call c) with adapter := a })) :
    ComesTo (n + 1) (issue c s) (callAdapter c s.close k) := by
  unfold issue callAdapter
  have same : (s.close.emit (.call c)).adapter = s.adapter := rfl
  cases h : s.adapter.call c with
  | ok a =>
    rw [takeAnswer_ok (same ▸ h)]
    exact comesTo_advance hq (by simp) (hk a)
  | fail sig a =>
    rw [takeAnswer_fail (same ▸ h)]
    exact comesTo_advance hq (by simp) (comesTo_self n _)
  | unanswered a =>
    rw [takeAnswer_unanswered (same ▸ h), hc (call_unanswered h).1]
    exact comesTo_self _ _
  | hold a =>
    rw [takeAnswer_hold (same ▸ h), hc (call_hold h).1]
    exact comesTo_self _ _
  | refuse =>
    rw [takeAnswer_refuse (same ▸ h)]
    exact comesTo_self _ _

/-- A command that ends with one call. -/
theorem issue_comesTo_forward {c : AdpCall} {s : State} (hq : Undisturbed s) (hi : c ≠ .initialise)
    (hc : c = .awaitCompletion → s.close = s) : ComesTo 1 (issue c s) (forward c s.close) := by
  refine issue_comesTo hq hc fun a => ?_
  cases c with
  | initialise => exact absurd rfl hi
  | configurePattern p => exact comesTo_self 0 _
  | send f => exact comesTo_self 0 _
  | awaitCompletion => exact comesTo_self 0 _
  | teardown => exact comesTo_self 0 _

/-! ### The bytes of a frame -/

/-- Inside a serialization, `k` bytes of the frame standing (R105). -/
def State.serializing (s : State) (d : Destination) (k : Nat) : State :=
  { s with frame := (List.range k).map s.frameByte, scan := k, port := .serializing d }

theorem advance_serializing {s : State} {d : Destination} {k : Nat} (hk : k < 3 * s.num) :
    advance (s.serializing d k) = .next (s.serializing d (k + 1)) := by
  have next_byte : serializeByte (s.serializing d k) = s.serializing d (k + 1) := by
    rw [serializeByte_eq (s := s.serializing d k) hk, State.serializing, State.serializing, List.range_succ, List.map_append]
    rfl
  rw [← next_byte]
  exact if_pos hk

theorem advance_serialized (s : State) (d : Destination) :
    advance (s.serializing d (3 * s.num)) = deliverFrame d (s.serializing d (3 * s.num)) :=
  if_neg (Nat.lt_irrefl _)

/-- The bytes that are left, and then the whole frame delivered. -/
theorem serializing_comesTo {n j k : Nat} {s : State} {d : Destination} {o : Out} (hq : Undisturbed s)
    (hj : k + j = 3 * s.num) (h : ComesTo n (deliverFrame d (s.serializing d (3 * s.num))) o) :
    ComesTo (n + j + 1) (.next (s.serializing d k)) o := by
  refine comesTo_advance hq (by simp [State.serializing]) ?_
  induction j generalizing k with
  | zero => obtain rfl : k = 3 * s.num := hj; rw [advance_serialized]; exact h
  | succ j ih =>
    rw [advance_serializing (by omega)]
    exact comesTo_advance hq (by simp [State.serializing]) (ih (by omega))

theorem beginFrame_comesTo {n : Nat} {s : State} {d : Destination} {o : Out} (hq : Undisturbed s)
    (h : ComesTo n (deliverFrame d (s.serializing d (3 * s.num))) o) :
    ComesTo (n + 3 * s.num + 1) (beginFrame d s) o :=
  serializing_comesTo hq (Nat.zero_add _) h

/-! ### The commands -/

/-- ENCODE: its bytes, its frame, its response (R100). -/
theorem encode_comesTo {s : State} (hq : Undisturbed s) (hs : s.close = s) :
    ComesTo (3 * s.num + 2) (beginCommand .encode s) (exec .encode s) := by
  refine comesTo_require ((beginFrame_comesTo (n := 1) hq ?_).mono (by omega)) _ s
  rw [encodedFrame_eq, ← hs]
  exact comesTo_advance hq (by simp) (comesTo_self 0 _)

/-- START: its bytes, its call, the answer (43_facade_adapter R112). -/
theorem start_comesTo {s : State} (hq : Undisturbed s) (hs : s.close = s) :
    ComesTo (3 * s.num + 2) (beginCommand .start s) (exec .start s) := by
  refine comesTo_require ((beginFrame_comesTo (n := 1) hq ?_).mono (by omega)) _ s
  rw [encodedFrame_eq, ← hs]
  exact issue_comesTo_forward hq (by simp) (by simp)

/-- INIT: its two calls and the answer to each (43_facade_adapter R111). -/
theorem init_comesTo {s : State} (hq : Undisturbed s) (hs : s.close = s) (ord : BitVec 3) (n dz d1 f rd : Word) :
    ComesTo 2 (beginCommand (.init ord n dz d1 f rd) s) (exec (.init ord n dz d1 f rd) s) := by
  simp only [beginCommand, exec, execInit]
  refine comesTo_withConstructor (fun o m => ?_) ord _ s
  rw [← hs]
  refine issue_comesTo (s := s.close.committed o m dz d1 f rd) hq (by simp) fun a => ?_
  exact issue_comesTo_forward hq (by simp) (by simp)

/-- The first piece of a command and the further ones come to the whole command. -/
theorem beginCommand_comesTo {s : State} (hq : Undisturbed s) (hs : s.close = s) (i : Instr) :
    ComesTo (3 * s.num + 2) (beginCommand i s) (exec i s) := by
  have one_call {c : AdpCall} (hc : c ≠ .initialise) :
      ComesTo (3 * s.num + 2) (requireFacade s (issue c s)) (requireFacade s (forward c s)) := by
    have h := issue_comesTo_forward hq hc fun _ => hs
    rw [hs] at h
    exact comesTo_require (h.mono (by omega)) _ s
  cases i with
  | encode => exact encode_comesTo hq hs
  | init ord n dz d1 f rd => exact (init_comesTo hq hs ord n dz d1 f rd).mono (by omega)
  | start => exact start_comesTo hq hs
  | wait => exact one_call (by simp)
  | cleanup => exact one_call (by simp)
  | create | setpxP | setpxC | setpxA | setpxmP | setpxmC | setpxmA | setopt => exact comesTo_self _ _

/-- Settles O48: the first step is the command's first piece, whatever the command comes to. -/
theorem piecesReachTheCommand : Obligations.PiecesReachTheCommand := by
  intro s i tail hp hf hn hi hin htail
  have first : step s = beginCommand i { s with inputs := tail } :=
    (presentedCommandRuns s i (.tick :: tail) hp hi hin).2 tail rfl
  have reached : ∃ n, 0 < n ∧ n ≤ 3 * s.num + 3 ∧ steps n s = exec i { s with inputs := tail } :=
    ComesTo.exists_steps (first ▸ beginCommand_comesTo (s := { s with inputs := tail }) htail (close_eq_self hp hf hn) i)
  exact ⟨fun t h => h ▸ reached, fun r h => h ▸ reached⟩

end Sys2Proof.Machine
end

section
/-! PROOFS. The Driver Facade and the adapter it forwards to (43_facade_adapter). -/

namespace Sys2Proof.Machine

/-! ### One adapter call -/

theorem callAdapter_ok {c : AdpCall} {s : State} {a : Adapter} (h : s.adapter.call c = .ok a) (k : State → Out) :
    callAdapter c s k = k { s.emit (.call c) with adapter := a } :=
  takeAnswer_ok (s := s.emit (.call c)) h k

theorem callAdapter_fail {c : AdpCall} {s : State} {a : Adapter} {sig : AdpSignal} (h : s.adapter.call c = .fail sig a)
    (k : State → Out) :
    callAdapter c s k = .next { s with
      adapter := a, fault := if s.fault = none then some .adapterFailure else s.fault
      trace := s.trace ++ [.call c, .response (.err (.adapterFailure sig))] } := by
  rw [callAdapter, takeAnswer_fail (s := s.emit (.call c)) h, raise_eq, stickyFault_eq]
  simp only [emit_trace, List.append_assoc, List.cons_append, List.nil_append]
  rfl

/-- A command that is one call answers `OK` when the adapter does, and nothing of the block changes. -/
theorem forward_ok {c : AdpCall} {s : State} {a : Adapter} (h : s.adapter.call c = .ok a) :
    forward c s = .next { s with adapter := a, trace := s.trace ++ [.call c, .response .ok] } := by
  rw [forward, callAdapter_ok h, respond_eq]
  simp [State.emit]

theorem forward_fail {c : AdpCall} {s : State} {a : Adapter} {sig : AdpSignal} (h : s.adapter.call c = .fail sig a) :
    forward c s = .next { s with
      adapter := a, fault := if s.fault = none then some .adapterFailure else s.fault
      trace := s.trace ++ [.call c, .response (.err (.adapterFailure sig))] } :=
  callAdapter_fail h _

/-! ### The commands, their checks passed -/

theorem exec_start {s : State} (hl : s.life = .facade) :
    exec .start s = forward (.send s.encodedFrame) { s with scan := 0 } := require_pos hl _ s _

theorem exec_wait {s : State} (hl : s.life = .facade) : exec .wait s = forward .awaitCompletion s := require_pos hl _ s _

theorem exec_cleanup {s : State} (hl : s.life = .facade) : exec .cleanup s = forward .teardown s := require_pos hl _ s _

/-- An INIT with legal arguments commits, then makes its two calls (R111). -/
theorem exec_init {s : State} {ord : BitVec 3} {o : ChannelOrder} {n : Word} (hl : s.life = .empty)
    (ho : ChannelOrder.ofCode ord = some o) (h0 : 0 ≤ n.toInt) (hn : n.toInt ≤ s.cfg.nMax.val) (dz d1 f rd : Word) :
    exec (.init ord n dz d1 f rd) s =
      callAdapter .initialise (s.committed o n.toInt.toNat dz d1 f rd) fun s => forward (.configurePattern s.pattern) s :=
  withConstructor_ok hl ho h0 hn fun o n =>
    callAdapter .initialise (s.committed o n dz d1 f rd) fun s => forward (.configurePattern s.pattern) s

/-- The second call of an INIT, its first answered `ok`: the arguments are those committed (R111, R121). -/
theorem initCalls_ok {s : State} {a : Adapter} (h : s.adapter.call .initialise = .ok a) (o : ChannelOrder) (n : Nat)
    (dz d1 f rd : Word) :
    (callAdapter .initialise (s.committed o n dz d1 f rd) fun s => forward (.configurePattern s.pattern) s) =
      forward (.configurePattern ⟨3 * n, f, rd, dz, d1⟩)
        { s.committed o n dz d1 f rd with adapter := a, trace := s.trace ++ [.call .initialise] } :=
  callAdapter_ok (s := s.committed o n dz d1 f rd) h _

/-- Settles O34: each of the two is one forwarded call, its answer `ok` or `fail`. -/
theorem waitAndCleanupForward : Obligations.WaitAndCleanupForward := by
  intro s a sig i c hl hi
  have forwards : exec i s = forward c s := by
    rcases hi with ⟨rfl, rfl⟩ | ⟨rfl, rfl⟩
    · exact exec_wait hl
    · exact exec_cleanup hl
  rw [forwards]
  exact ⟨forward_ok, forward_fail⟩

/-- A frame with the bytes of R101 is the encoded one. -/
theorem encodedFrame_of_bytes {s : State} {f : Frame} (hlen : f.length = 3 * s.num)
    (hf : ∀ k < 3 * s.num, f[k]? = some (s.frameByte k)) : f = s.encodedFrame := by
  refine List.ext_getElem? fun k => ?_
  rcases Nat.lt_or_ge k (3 * s.num) with hk | hk
  · rw [hf k hk, encodedFrame_byte s hk]
  · rw [List.getElem?_eq_none (by omega), List.getElem?_eq_none (by rw [encodedFrame_length]; omega)]

/-- Settles O33: the frame that is sent is the one of R101. -/
theorem startSendsTheFrame : Obligations.StartSendsTheFrame := by
  intro s f a sig hl hlen hf
  obtain rfl : f = s.encodedFrame := encodedFrame_of_bytes hlen hf
  rw [exec_start hl]
  exact ⟨forward_ok (s := { s with scan := 0 }), forward_fail (s := { s with scan := 0 })⟩

/-- Settles O31: the two calls answered, what is committed and the answer stand. -/
theorem initConfiguresAdapter : Obligations.InitConfiguresAdapter := by
  intro s ord n dz d1 f rd o a₁ a₂ hl ho h0 hn h₁ h₂
  rw [exec_init hl ho h0 hn, initCalls_ok h₁, forward_ok h₂, List.append_assoc]
  exact ⟨_, rfl, rfl, fun i _ => Memory.read_clear i⟩

/-- Settles O32: whichever call fails, what is committed stands. -/
theorem initKeepsStateOnAdapterFailure : Obligations.InitKeepsStateOnAdapterFailure := by
  intro s ord n dz d1 f rd o a₁ a₂ sig hl ho h0 hn
  have black (i : Nat) : Memory.clear.read i = .packed 0#24 := Memory.read_clear i
  rw [exec_init hl ho h0 hn]
  refine ⟨fun h₁ => ?_, fun h₁ h₂ => ?_⟩
  · rw [callAdapter_fail (s := s.committed o n.toInt.toNat dz d1 f rd) h₁]
    exact ⟨_, rfl, rfl, rfl, rfl, rfl, fun i _ => black i, rfl, rfl, rfl, rfl, rfl, rfl⟩
  · rw [initCalls_ok h₁, forward_fail h₂, List.append_assoc]
    exact ⟨_, rfl, rfl, rfl, rfl, rfl, fun i _ => black i, rfl, rfl, rfl, rfl, rfl, rfl⟩

/-! ### A WAIT without an answer -/

theorem forward_unanswered {c : AdpCall} {s : State} {a : Adapter} (h : s.adapter.call c = .unanswered a) :
    forward c s = .next { s with adapter := a, trace := s.trace ++ [.call c], port := .unanswered } :=
  takeAnswer_unanswered (s := s.emit (.call c)) h fun s => .next (respond .ok s)

theorem forward_hold {c : AdpCall} {s : State} {a : Adapter} (h : s.adapter.call c = .hold a) :
    forward c s = .next { s with adapter := a, trace := s.trace ++ [.call c], port := .holding } :=
  takeAnswer_hold (s := s.emit (.call c)) h fun s => .next (respond .ok s)

theorem step_reset {s : State} {rest : List Input} (hp : s.port ≠ .ready) (hi : s.inputs = .reset :: rest) :
    step s = .next (resetBlock { s with inputs := rest }) := by
  rw [step_within hp, stepWithin, hi]

theorem step_complete {s : State} {rest : List Input} (hp : s.port ≠ .ready) (hi : s.inputs = .complete :: rest) :
    step s = .next { s with adapter := s.adapter.complete, inputs := rest } := by
  rw [step_within hp, stepWithin, hi]

theorem step_unanswered {s : State} (hp : s.port = .unanswered) (hq : Undisturbed s) : step s = .next s := by
  rw [step_undisturbed hq (by simp [hp]), advance, hp]

/-- Settles O35: inside the call only a reset is taken. -/
theorem unansweredCallWaitsForReset : Obligations.UnansweredCallWaitsForReset := by
  intro s a hl h
  refine ⟨_, (exec_wait hl).trans (forward_unanswered h), rfl, fun w rest hi => ?_, fun hi => ?_, fun rest hi => ?_⟩
  · exact step_unanswered rfl (.inr ⟨w, rest, hi⟩)
  · exact step_unanswered rfl (.inl hi)
  · exact step_reset (by simp) hi

/-! ### The reference adapter (R126) -/

theorem refComplete_of_inflight {r : RefAdapter} {f : Frame} (hf : r.inflight = some f) :
    r.complete = { r with inflight := none, log := r.log ++ [f] } := by
  simp [RefAdapter.complete, hf]

theorem refComplete_of_none {r : RefAdapter} (hf : r.inflight = none) : r.complete = r := by
  simp [RefAdapter.complete, hf]

@[simp] theorem refComplete_torn (r : RefAdapter) : r.complete.torn = r.torn := by
  cases h : r.inflight <;> simp [RefAdapter.complete, h]

@[simp] theorem refComplete_inflight (r : RefAdapter) : r.complete.inflight = none := by
  cases h : r.inflight <;> simp [RefAdapter.complete, h]

@[simp] theorem complete_sending (a : Adapter) : a.complete.sending = false := by
  cases a <;> simp [Adapter.complete, Adapter.sending]

theorem call_await_inflight {r : RefAdapter} {f : Frame} (ht : r.torn = false) (hf : r.inflight = some f)
    (answers : List AdpAnswer) : Adapter.call (.reference r answers) .awaitCompletion = .hold (.reference r answers) := by
  simp [call_reference, RefAdapter.call, ht, hf]

theorem call_await_idle {r : RefAdapter} (ht : r.torn = false) (hf : r.inflight = none) (answers : List AdpAnswer) :
    Adapter.call (.reference r answers) .awaitCompletion = answerFrom answers (.reference r) (.reference r) := by
  simp [call_reference, RefAdapter.call, ht, hf]

/-- A WAIT that is held goes on with the adapter's own step as long as a frame is in flight. -/
theorem step_holding_sending {s : State} (hp : s.port = .holding) (hq : Undisturbed s) (h : s.adapter.sending = true) :
    step s = .next { s with adapter := s.adapter.complete } := by
  rw [step_undisturbed hq (by simp [hp])]
  simp only [advance, hp, h, if_true]

/-- With none in flight its answer is taken. -/
theorem step_holding_idle {s : State} (hp : s.port = .holding) (hq : Undisturbed s) (h : s.adapter.sending = false) :
    step s = takeAnswer .awaitCompletion { s with port := .ready } (afterAnswer .awaitCompletion) := by
  rw [step_undisturbed hq (by simp [hp])]
  simp [advance, hp, h]

theorem step_held_ok {s : State} {a : Adapter} (hp : s.port = .holding) (hq : Undisturbed s)
    (hi : s.adapter.sending = false) (h : s.adapter.call .awaitCompletion = .ok a) :
    step s = .next { s with adapter := a, trace := s.trace ++ [.response .ok], port := .ready } := by
  rw [step_holding_idle hp hq hi, takeAnswer_ok (s := { s with port := .ready }) h]
  rfl

theorem step_held_fail {s : State} {a : Adapter} {sig : AdpSignal} (hp : s.port = .holding) (hq : Undisturbed s)
    (hi : s.adapter.sending = false) (h : s.adapter.call .awaitCompletion = .fail sig a) :
    step s = .next { s with
      adapter := a, fault := if s.fault = none then some .adapterFailure else s.fault
      trace := s.trace ++ [.response (.err (.adapterFailure sig))], port := .ready } := by
  rw [step_holding_idle hp hq hi, takeAnswer_fail (s := { s with port := .ready }) h, raise_eq, stickyFault_eq]
  rfl

/-- Settles O36: a call held, a step of the adapter, and an answer taken. -/
theorem referenceAdapterHoldsWait : Obligations.ReferenceAdapterHoldsWait := by
  intro s r answers f hl hs ht hf hq
  have held : s.adapter.call .awaitCompletion = .hold s.adapter := by rw [hs, call_await_inflight ht hf]
  have transmitted : s.adapter.complete = .reference r.complete answers := by rw [hs]; rfl
  have answer : s.adapter.complete.call .awaitCompletion =
      answerFrom answers (.reference r.complete) (.reference r.complete) := by
    rw [transmitted, call_await_idle (by simpa using ht) (by simp)]
  rw [← refComplete_of_inflight hf]
  refine ⟨_, _, (exec_wait hl).trans (forward_hold held), step_holding_sending rfl hq (by simp [hs, Adapter.sending, hf]),
    rfl, by rw [← transmitted], ?_, ?_, ?_⟩
  · rintro rfl
    exact step_held_ok rfl hq (complete_sending _) (transmitted ▸ answer)
  · rintro rest rfl
    exact step_held_ok rfl hq (complete_sending _) answer
  · rintro sig rest rfl
    exact step_held_fail rfl hq (complete_sending _) answer

/-! ### Call orders the reference adapter refuses -/

theorem call_refuse_iff (r : RefAdapter) (answers : List AdpAnswer) (c : AdpCall) :
    Adapter.call (.reference r answers) c = .refuse ↔ r.call c = .refuse := by
  refine ⟨fun h => ?_, fun h => by rw [call_reference, h]⟩
  obtain ⟨r', answers', heq, h'⟩ := call_refuse h
  cases heq
  exact h'

theorem refCall_initialise_refuse (r : RefAdapter) : r.call .initialise = .refuse ↔ r.inflight ≠ none := by
  simp [RefAdapter.call]

theorem refCall_send_refuse (r : RefAdapter) (f : Frame) :
    r.call (.send f) = .refuse ↔
      ¬ (r.configured = true ∧ r.torn = false ∧ r.inflight = none ∧ r.pattern.map Pattern.byteCount = some f.length) := by
  simp [RefAdapter.call]

theorem refCall_await_refuse (r : RefAdapter) : r.call .awaitCompletion = .refuse ↔ r.torn = true := by
  by_cases ht : r.torn = true
  · simp [RefAdapter.call, ht]
  · by_cases hf : r.inflight = none <;> simp [RefAdapter.call, ht, hf]

theorem refCall_teardown_refuse (r : RefAdapter) : r.call .teardown = .refuse ↔ r.inflight ≠ none ∨ r.torn = true := by
  simp [RefAdapter.call, imp_iff_not_or]

/-- A command stops at its call exactly where the adapter refuses that call, if what follows does not stop there. -/
theorem callAdapter_refused_iff {c : AdpCall} {s : State} {k : State → Out}
    (hk : ∀ t, k t ≠ .refused (.adapterOrder c)) :
    callAdapter c s k = .refused (.adapterOrder c) ↔ s.adapter.call c = .refuse := by
  have issued : (s.emit (.call c)).adapter.call c = s.adapter.call c := rfl
  rw [callAdapter, takeAnswer, issued]
  cases s.adapter.call c with
  | ok a => simp [hk]
  | fail | unanswered | hold | refuse => simp

theorem forward_refused_iff {c : AdpCall} {s : State} {r : RefAdapter} {answers : List AdpAnswer}
    (hs : s.adapter = .reference r answers) : forward c s = .refused (.adapterOrder c) ↔ r.call c = .refuse := by
  rw [forward, callAdapter_refused_iff (by simp), hs, call_refuse_iff]

/-- A command that is one call stops at no other. -/
theorem forward_not_refused {c c' : AdpCall} (hc : c ≠ c') (s : State) : forward c s ≠ .refused (.adapterOrder c') := by
  rcases takeAnswer_cases c (s.emit (.call c)) fun s => .next (respond .ok s) with
    ⟨_, -, h⟩ | ⟨_, _, -, h⟩ | ⟨_, -, -, h⟩ | ⟨-, -, -, h⟩ | ⟨-, -, h⟩ <;> simp [forward, callAdapter, h, hc]

/-- Settles O37: each command stops where its call is refused; INIT's second call is another one. -/
theorem referenceAdapterRefusals : Obligations.ReferenceAdapterRefusals := by
  intro s r answers hs
  refine ⟨fun hl => ⟨?_, ?_, ?_⟩, fun ord o n dz d1 f rd hl ho h0 hn => ?_⟩
  · rw [exec_start hl, forward_refused_iff (s := { s with scan := 0 }) hs, refCall_send_refuse, encodedFrame_length]
  · rw [exec_wait hl, forward_refused_iff hs, refCall_await_refuse]
  · rw [exec_cleanup hl, forward_refused_iff hs, refCall_teardown_refuse]
  · have untouched : (s.committed o n.toInt.toNat dz d1 f rd).adapter = .reference r answers := hs
    rw [exec_init hl ho h0 hn, callAdapter_refused_iff fun t => forward_not_refused (by simp) t, untouched, call_refuse_iff,
      refCall_initialise_refuse]

/-! ### The adapter's own step -/

/-- Between commands and inside an incomplete one, a step `complete` behind the words not yet consumed. -/
theorem step_incomplete_complete {s : State} {ws : List Word} {rest : List Input} (hp : s.port = .ready)
    (hd : decode ws = .incomplete) (hi : s.inputs = ws.map Input.word ++ .complete :: rest) :
    step s = .next { s with adapter := s.adapter.complete, inputs := ws.map Input.word ++ rest } := by
  have waiting : leadingWords s.inputs = ws := by rw [hi, leadingWords_append]; exact List.append_nil ws
  have behind : afterWords s.inputs = .complete :: rest := by rw [hi, afterWords_append, afterWords_of_no_word rfl]
  rw [step_ready hp, stepReady, waiting, hd, behind, idle]

/-- Settles O38: the three places of the step, then what it does to each kind of adapter. -/
theorem adapterStepChangesOnlyAdapter : Obligations.AdapterStepChangesOnlyAdapter := by
  refine ⟨fun _ _ _ => step_incomplete_complete, fun _ _ => step_complete,
    fun r answers => ⟨fun f hf => ?_, fun hf => ?_⟩, complete_oracle⟩
  · rw [Adapter.complete, refComplete_of_inflight hf]
  · rw [Adapter.complete, refComplete_of_none hf]

end Sys2Proof.Machine
end

section
/-! PROOFS. Failure signals pass through the block unread (43_facade_adapter R119, R125): each operation commutes with
renaming them. -/

namespace Sys2Proof.Machine

variable {f : AdpSignal → AdpSignal}

/-! ### What renaming does to the pieces of a state -/

/-- An error with its signal renamed by `f`. -/
def Err.mapSignal (f : AdpSignal → AdpSignal) : Err → Err
  | .adapterFailure sig => .adapterFailure (f sig)
  | e => e

@[simp] theorem cause_mapSignal (e : Err) : (e.mapSignal f).cause = e.cause := by cases e <;> rfl

@[simp] theorem err_mapSignal (e : Err) : (Response.err e).mapSignal f = .err (e.mapSignal f) := by cases e <;> rfl

/-- What comes back for a call, its signal and those of the coming answers renamed by `f`. -/
def AdpResult.mapSignal (f : AdpSignal → AdpSignal) : AdpResult → AdpResult
  | .ok a => .ok (a.mapSignal f)
  | .fail sig a => .fail (f sig) (a.mapSignal f)
  | .unanswered a => .unanswered (a.mapSignal f)
  | .hold a => .hold (a.mapSignal f)
  | .refuse => .refuse

@[simp] theorem emit_mapSignal (e : Event) (s : State) : (s.emit e).mapSignal f = (s.mapSignal f).emit (e.mapSignal f) := by
  simp [State.mapSignal, State.emit]

theorem respond_ok_mapSignal (s : State) : (respond .ok s).mapSignal f = respond .ok (s.mapSignal f) :=
  emit_mapSignal _ s

theorem raise_mapSignal (e : Err) (s : State) : (raise e s).mapSignal f = raise (e.mapSignal f) (s.mapSignal f) := by
  rw [raise, raise, respond, respond, emit_mapSignal, cause_mapSignal, Event.mapSignal, err_mapSignal]
  rfl

theorem port_mapSignal_ready (s : State) : (s.mapSignal f).port = .ready ↔ s.port = .ready := by
  cases h : s.port <;> simp [State.mapSignal, PortState.mapSignal, h]

/-! ### The adapter (R119) -/

theorem answerFrom_mapSignal {onOk onFail onOk' onFail' : List AdpAnswer → Adapter}
    (hok : ∀ l, onOk' (l.map (AdpAnswer.mapSignal f)) = (onOk l).mapSignal f)
    (hfail : ∀ l, onFail' (l.map (AdpAnswer.mapSignal f)) = (onFail l).mapSignal f) (answers : List AdpAnswer) :
    answerFrom (answers.map (AdpAnswer.mapSignal f)) onOk' onFail' = (answerFrom answers onOk onFail).mapSignal f := by
  match answers with
  | [] => exact congrArg AdpResult.ok (hok [])
  | .ok :: rest => exact congrArg AdpResult.ok (hok rest)
  | .fail sig :: rest => exact congrArg (AdpResult.fail (f sig)) (hfail rest)

theorem awaitOracle_mapSignal (answers : List AdpAnswer) (completions : List Completion) :
    awaitOracle (answers.map (AdpAnswer.mapSignal f)) (completions.map (Completion.mapSignal f)) =
      (awaitOracle answers completions).mapSignal f := by
  match completions with
  | [] => rfl
  | .answered .ok :: _ => rfl
  | .answered (.fail _) :: _ => rfl
  | .never :: _ => rfl

/-- An adapter whose coming answers are renamed does on every call what it did before, renamed. -/
theorem call_mapSignal (a : Adapter) (c : AdpCall) : (a.mapSignal f).call c = (a.call c).mapSignal f := by
  cases a with
  | oracle answers completions =>
    by_cases hc : c = .awaitCompletion
    · subst hc; exact awaitOracle_mapSignal answers completions
    · rw [Adapter.mapSignal, call_oracle hc, call_oracle hc]
      exact answerFrom_mapSignal (fun _ => rfl) (fun _ => rfl) answers
  | reference r answers =>
    rw [Adapter.mapSignal, call_reference, call_reference]
    cases r.call c with
    | ok r' => exact answerFrom_mapSignal (fun _ => rfl) (fun _ => rfl) answers
    | hold => rfl
    | refuse => rfl

theorem complete_mapSignal (a : Adapter) : (a.mapSignal f).complete = a.complete.mapSignal f := by cases a <;> rfl

theorem sending_mapSignal (a : Adapter) : (a.mapSignal f).sending = a.sending := by cases a <;> rfl

/-! ### The shared operations -/

/-- The operation `k` passes failure signals through unread: it commutes with renaming them by `f`. -/
def SignalBlind (f : AdpSignal → AdpSignal) (k : State → Out) : Prop := ∀ s, k (s.mapSignal f) = mapOutcome f (k s)

theorem next_respond_signalBlind : SignalBlind f fun s => .next (respond .ok s) :=
  fun s => congrArg Host.Outcome.next (respond_ok_mapSignal s).symm

theorem next_raise_mapSignal (e : Err) (s : State) :
    .next (raise (e.mapSignal f) (s.mapSignal f)) = mapOutcome f (.next (raise e s)) :=
  congrArg Host.Outcome.next (raise_mapSignal e s).symm

theorem require_mapSignal {c : Prop} [Decidable c] {e : Err} (he : e.mapSignal f = e) {s : State} {k k' : Out}
    (hk : k' = mapOutcome f k) : require c e (s.mapSignal f) k' = mapOutcome f (require c e s k) := by
  rcases require_cases c e s k with ⟨hc, h⟩ | ⟨hc, h⟩ <;> rw [h]
  · rw [require_pos hc, hk]
  · rw [require_neg hc, ← next_raise_mapSignal, he]

theorem requireBuffer_signalBlind {k : State → Out} (hk : SignalBlind f k) :
    SignalBlind f fun s => requireBuffer s (k s) :=
  fun s => require_mapSignal rfl (hk s)

theorem requireFacade_signalBlind {k : State → Out} (hk : SignalBlind f k) :
    SignalBlind f fun s => requireFacade s (k s) :=
  fun s => require_mapSignal rfl (hk s)

theorem requireColour_signalBlind (cw : Word) {k : State → Out} (hk : SignalBlind f k) :
    SignalBlind f fun s => requireColour cw s (k s) :=
  fun s => require_mapSignal rfl (hk s)

theorem withConstructor_signalBlind (ord : BitVec 3) (n : Int) {k : ChannelOrder → Nat → State → Out}
    (hk : ∀ o m, SignalBlind f (k o m)) : SignalBlind f fun s => withConstructor ord n s fun o m => k o m s := by
  refine fun s => require_mapSignal rfl ?_
  cases ChannelOrder.ofCode ord with
  | none => exact next_raise_mapSignal (.configError ord.toNat) s
  | some o => exact require_mapSignal rfl (hk o n.toNat s)

theorem setPixel_signalBlind (index : Int) (c : PixelColor) : SignalBlind f (setPixel index c) :=
  requireBuffer_signalBlind fun s =>
    require_mapSignal rfl (next_respond_signalBlind { s with slots := s.slots.write index.toNat c })

/-- A failed call is where a signal goes from an answer to a response, and it goes there unread (R125). -/
theorem takeAnswer_signalBlind (c : AdpCall) {k : State → Out} (hk : SignalBlind f k) :
    SignalBlind f fun s => takeAnswer c s k := by
  intro s
  have renamed : (s.mapSignal f).adapter.call c = (s.adapter.call c).mapSignal f := call_mapSignal s.adapter c
  simp only [takeAnswer, renamed]
  cases s.adapter.call c with
  | ok a => exact hk { s with adapter := a }
  | fail sig a => exact next_raise_mapSignal (.adapterFailure sig) { s with adapter := a }
  | unanswered a => rfl
  | hold a => rfl
  | refuse => rfl

theorem callAdapter_signalBlind {c : AdpCall} {k : State → Out} (hk : SignalBlind f k) :
    SignalBlind f fun s => callAdapter c s k := by
  intro s
  have issued : (s.emit (.call c)).mapSignal f = (s.mapSignal f).emit (.call c) := emit_mapSignal (.call c) s
  simp only [callAdapter, ← issued]
  exact takeAnswer_signalBlind c hk (s.emit (.call c))

theorem forward_signalBlind (c : AdpCall) : SignalBlind f (forward c) := callAdapter_signalBlind next_respond_signalBlind

theorem issue_signalBlind (c : AdpCall) : SignalBlind f (issue c) := by
  intro s
  have renamed : (s.mapSignal f).adapter.call c = (s.adapter.call c).mapSignal f := call_mapSignal s.adapter c
  have issued : (s.mapSignal f).emit (.call c) = (s.emit (.call c)).mapSignal f := (emit_mapSignal (.call c) s).symm
  simp only [issue, renamed, issued]
  cases s.adapter.call c <;> rfl

/-! ### The commands -/

theorem exec_signalBlind (i : Instr) : SignalBlind f (exec i) := by
  cases i with
  | create ord n =>
    exact withConstructor_signalBlind ord (signed n)
      (k := fun o m s => .next (respond .ok { s.createBuffer o m with life := .core }))
      fun o m s => next_respond_signalBlind { s.createBuffer o m with life := .core }
  | setpxP index cw => exact requireColour_signalBlind cw (setPixel_signalBlind _ _)
  | setpxC index cw => exact requireColour_signalBlind cw (setPixel_signalBlind _ _)
  | setpxA index cw => exact setPixel_signalBlind _ _
  | setpxmP x y w cw => exact requireColour_signalBlind cw (setPixel_signalBlind _ _)
  | setpxmC x y w cw => exact requireColour_signalBlind cw (setPixel_signalBlind _ _)
  | setpxmA x y w cw => exact setPixel_signalBlind _ _
  | setopt flag => exact requireBuffer_signalBlind fun s => next_respond_signalBlind { s with opt := flag }
  | encode =>
    refine requireBuffer_signalBlind fun s => congrArg Host.Outcome.next ?_
    rw [respond_ok_mapSignal]
    exact congrArg (respond .ok) (emit_mapSignal (.frame s.encodedFrame) { s with scan := 0 }).symm
  | init ord n dz d1 freq rd =>
    exact withConstructor_signalBlind ord (signed n)
      (k := fun o m s =>
        callAdapter .initialise (s.committed o m dz d1 freq rd) fun s => forward (.configurePattern s.pattern) s)
      fun o m s => callAdapter_signalBlind (fun s => forward_signalBlind (.configurePattern s.pattern) s)
        (s.committed o m dz d1 freq rd)
  | start => exact requireFacade_signalBlind fun s => forward_signalBlind (.send s.encodedFrame) { s with scan := 0 }
  | wait => exact requireFacade_signalBlind (forward_signalBlind .awaitCompletion)
  | cleanup => exact requireFacade_signalBlind (forward_signalBlind .teardown)

theorem beginCommand_signalBlind (i : Instr) : SignalBlind f (beginCommand i) := by
  cases i with
  | encode => exact requireBuffer_signalBlind fun _ => rfl
  | init ord n dz d1 freq rd =>
    exact withConstructor_signalBlind ord (signed n)
      (k := fun o m s => issue .initialise (s.committed o m dz d1 freq rd))
      fun o m s => issue_signalBlind .initialise (s.committed o m dz d1 freq rd)
  | start => exact requireFacade_signalBlind fun _ => rfl
  | wait => exact requireFacade_signalBlind (issue_signalBlind .awaitCompletion)
  | cleanup => exact requireFacade_signalBlind (issue_signalBlind .teardown)
  | create | setpxP | setpxC | setpxA | setpxmP | setpxmC | setpxmA | setopt =>
    intro s; simp only [beginCommand]; exact exec_signalBlind _ s

/-! ### The places inside a command -/

theorem afterAnswer_signalBlind (c : AdpCall) : SignalBlind f (afterAnswer c) := by
  cases c with
  | initialise => exact fun s => issue_signalBlind (.configurePattern s.pattern) s
  | configurePattern | send | awaitCompletion | teardown => exact next_respond_signalBlind

theorem deliverFrame_signalBlind (d : Destination) : SignalBlind f (deliverFrame d) := by
  intro s
  cases d with
  | out => exact congrArg Host.Outcome.next (emit_mapSignal (.frame s.frame) { s with port := .delivered }).symm
  | adapter => exact issue_signalBlind (.send s.frame) s

theorem serializeByte_mapSignal (s : State) : serializeByte (s.mapSignal f) = (serializeByte s).mapSignal f := rfl

theorem advance_signalBlind : SignalBlind f advance := by
  intro s
  have port : (s.mapSignal f).port = s.port.mapSignal f := rfl
  cases hp : s.port with
  | ready | unanswered => simp only [advance, port, hp, PortState.mapSignal, mapOutcome]
  | serializing d =>
    simp only [advance, port, hp, PortState.mapSignal]
    change (if s.scan < 3 * s.num then _ else _) = mapOutcome f (if s.scan < 3 * s.num then _ else _)
    split
    · exact congrArg Host.Outcome.next (serializeByte_mapSignal s)
    · exact deliverFrame_signalBlind d s
  | delivered =>
    simp only [advance, port, hp, PortState.mapSignal]
    exact next_respond_signalBlind s.close
  | calling c a =>
    simp only [advance, port, hp, PortState.mapSignal]
    cases a with
    | ok => exact afterAnswer_signalBlind c s.close
    | fail sig => exact next_raise_mapSignal (.adapterFailure sig) s.close
  | holding =>
    have adapter : (s.mapSignal f).adapter = s.adapter.mapSignal f := rfl
    simp only [advance, port, hp, PortState.mapSignal, adapter, sending_mapSignal, complete_mapSignal]
    split
    · simp only [mapOutcome, State.mapSignal, hp, PortState.mapSignal]
    · exact takeAnswer_signalBlind .awaitCompletion (afterAnswer_signalBlind .awaitCompletion) { s with port := .ready }

/-! ### The steps -/

theorem next_complete_mapSignal (s : State) (ins : List Input) :
    (.next { s.mapSignal f with adapter := (s.mapSignal f).adapter.complete, inputs := ins } : Out) =
      mapOutcome f (.next { s with adapter := s.adapter.complete, inputs := ins }) :=
  congrArg (fun a => Host.Outcome.next { s.mapSignal f with adapter := a, inputs := ins }) (complete_mapSignal s.adapter)

theorem stepWithin_signalBlind : SignalBlind f stepWithin := by
  intro s
  have inputs : (s.mapSignal f).inputs = s.inputs := rfl
  simp only [stepWithin, inputs]
  match s.inputs with
  | .reset :: rest => rfl
  | .complete :: rest => exact next_complete_mapSignal s rest
  | .tick :: rest => exact advance_signalBlind { s with inputs := rest }
  | .word _ :: _ => exact advance_signalBlind s
  | [] => exact advance_signalBlind s

theorem perform_signalBlind (i : Instr) (rest : List Word) (tail : List Input) : SignalBlind f (perform i rest tail) := by
  intro s
  by_cases h : rest = [] → ∀ l, tail ≠ .tick :: l
  · rw [perform_whole h, perform_whole h]
    exact exec_signalBlind i { s with inputs := rest.map Input.word ++ tail }
  · push Not at h
    obtain ⟨rfl, l, rfl⟩ := h
    exact beginCommand_signalBlind i { s with inputs := l }

theorem idle_signalBlind (pending : List Word) (tail : List Input) : SignalBlind f fun s => .next (idle pending tail s) := by
  intro s
  match tail with
  | .complete :: rest => exact next_complete_mapSignal s (pending.map Input.word ++ rest)
  | .reset :: _ => rfl
  | .tick :: _ => rfl
  | .word _ :: _ => rfl
  | [] => rfl

theorem stepReady_signalBlind : SignalBlind f stepReady := by
  intro s
  have inputs : (s.mapSignal f).inputs = s.inputs := rfl
  simp only [stepReady, inputs]
  cases decode (leadingWords s.inputs) with
  | ok i rest => exact perform_signalBlind i rest _ s
  | badHeader h rest => exact next_raise_mapSignal (.illegalCommand h) (s.withWords rest)
  | badColour cw rest => exact next_raise_mapSignal (.illegalCommand cw) (s.withWords rest)
  | incomplete => exact idle_signalBlind _ _ s

/-- Settles O60: inside a command and between commands, every operation is blind to signals. -/
theorem adapterSignalIsOpaque : Obligations.AdapterSignalIsOpaque := by
  intro f s
  by_cases hp : s.port = .ready
  · rw [step_ready hp, step_ready ((port_mapSignal_ready s).mpr hp)]
    exact stepReady_signalBlind s
  · rw [step_within hp, step_within (mt (port_mapSignal_ready s).mp hp)]
    exact stepWithin_signalBlind s

end Sys2Proof.Machine
end

section
/-! PROOFS. Errors, `FAULT` and the lifecycle (60_exceptions R135 to R145). -/

namespace Sys2Proof.Machine

/-! ### The lifecycle table (R141) -/

theorem life_ne_empty_iff {l : Life} : l ≠ .empty ↔ l = .core ∨ l = .facade := by cases l <;> decide

/-- A command the table does not allow is refused ahead of every check of its operands. -/
theorem exec_answersErr_of_not_allowed {i : Instr} {s : State} (hw : i.wellFormed = true) (h : ¬ lifeAllows i s.life) :
    AnswersErr (exec i s) s (.illegalState s.life) := by
  have of_set {index : Int} (hi : pixelIndex i = some index) (hl : ¬ (s.life = .core ∨ s.life = .facade)) :
      AnswersErr (exec i s) s (.illegalState s.life) := by
    obtain ⟨c, cw, hx⟩ := exec_set hi s
    rw [hx, require_pos hw]
    exact require_answersErr (mt life_ne_empty_iff.mp hl) _ s _
  cases i with
  | create ord n => exact (constructorRefusals s ord n 0 0 0 0 _ (.inl rfl)).1 h
  | init ord n dz d1 f rd => exact (constructorRefusals s ord n dz d1 f rd _ (.inr rfl)).1 h
  | setpxP | setpxC | setpxA | setpxmP | setpxmC | setpxmA => exact of_set rfl h
  | setopt | encode => exact require_answersErr (mt life_ne_empty_iff.mp h) _ s _
  | start | wait | cleanup => exact require_answersErr (c := s.life = .facade) h _ s _

/-- The outcome `o` of a command in `s` is not a refusal by the lifecycle check. -/
def PassesLifecycle (s : State) (o : Out) : Prop := ∀ l, o ≠ .next (raise (.illegalState l) s)

theorem raise_inj {e e' : Err} {s : State} (h : raise e s = raise e' s) : e = e' := by
  simpa using congrArg State.trace h

/-- Nothing that ends with `OK` ends with `ERR`. -/
theorem respond_ok_trace_ne (b : State) (tr : List Event) (e : Err) :
    (respond .ok b).trace ≠ tr ++ [.response (.err e)] := by
  intro h
  simpa using congrArg List.getLast? h

theorem raise_passesLifecycle {e : Err} (he : e.cause ≠ .illegalState) (s : State) :
    PassesLifecycle s (.next (raise e s)) := by
  intro l h
  rw [raise_inj (Host.Outcome.next.inj h)] at he
  exact he rfl

theorem ok_passesLifecycle (b s : State) : PassesLifecycle s (.next (respond .ok b)) :=
  fun _ h => respond_ok_trace_ne b s.trace _ (congrArg State.trace (Host.Outcome.next.inj h))

theorem require_passesLifecycle {c : Prop} [Decidable c] {e : Err} (he : e.cause ≠ .illegalState) {s : State} {k : Out}
    (hk : PassesLifecycle s k) : PassesLifecycle s (require c e s k) := by
  rcases require_cases c e s k with ⟨-, h⟩ | ⟨-, h⟩ <;> rw [h]
  · exact hk
  · exact raise_passesLifecycle he s

/-- Behind its lifecycle check a constructor checks its operands only. -/
theorem withConstructor_passesLifecycle {s : State} (hl : s.life = .empty) {k : ChannelOrder → Nat → Out}
    (hk : ∀ o m, PassesLifecycle s (k o m)) (ord : BitVec 3) (n : Int) :
    PassesLifecycle s (withConstructor ord n s k) := by
  rw [withConstructor, require_pos hl]
  cases ChannelOrder.ofCode ord with
  | none => exact raise_passesLifecycle (by simp [Err.cause]) s
  | some o => exact require_passesLifecycle (by simp [Err.cause]) (hk o _)

theorem setPixel_passesLifecycle {s : State} (hl : s.life ≠ .empty) (index : Int) (c : PixelColor) :
    PassesLifecycle s (setPixel index c s) := by
  rw [setPixel, requireBuffer, require_pos hl]
  exact require_passesLifecycle (by simp [Err.cause]) (ok_passesLifecycle _ s)

/-- The only error of a call sequence is the adapter's failure, and only the adapter and `FAULT` have changed (R135). -/
theorem CallEffect.of_err {b t : State} (h : CallEffect b t) {es : List Event} {e : Err}
    (ht : t.trace = b.trace ++ es ++ [.response (.err e)]) :
    ∃ sig a, e = .adapterFailure sig ∧ t = raise e { b with trace := b.trace ++ es, adapter := a } := by
  cases h with
  | done cs a => exact absurd ht (respond_ok_trace_ne _ _ _)
  | failed cs a sig =>
    obtain ⟨rfl, h⟩ := trace_last ht
    cases h
    exact ⟨sig, a, rfl, rfl⟩
  | waiting a p _ =>
    rw [List.append_assoc] at ht
    exact absurd (List.append_cancel_left ht) (calls_ne_response (cs := [.awaitCompletion]))

theorem calls_passLifecycle {s b : State} {o : Out} (htr : b.trace = s.trace) (h : ∀ t, o = .next t → CallEffect b t) :
    PassesLifecycle s o := by
  intro l hl
  obtain ⟨sig, a, he, -⟩ := (h _ hl).of_err (es := []) (e := .illegalState l) (by simp [htr])
  cases he

/-- A command the table allows never meets a second lifecycle check. -/
theorem exec_passesLifecycle {i : Instr} {s : State} (h : lifeAllows i s.life) : PassesLifecycle s (exec i s) := by
  have of_set {index : Int} (hi : pixelIndex i = some index) (hl : s.life = .core ∨ s.life = .facade) :
      PassesLifecycle s (exec i s) := by
    obtain ⟨c, cw, hx⟩ := exec_set hi s
    rw [hx]
    exact require_passesLifecycle (by simp [Err.cause]) (setPixel_passesLifecycle (life_ne_empty_iff.mpr hl) index c)
  cases i with
  | create ord n => exact withConstructor_passesLifecycle h (fun o m => ok_passesLifecycle _ s) ord (signed n)
  | init ord n dz d1 f rd =>
    exact withConstructor_passesLifecycle h
      (fun o m => calls_passLifecycle (b := s.committed o m dz d1 f rd) rfl fun _ ht => (initCalls_effect ht).1)
      ord (signed n)
  | setpxP | setpxC | setpxA | setpxmP | setpxmC | setpxmA => exact of_set rfl h
  | setopt flag =>
    rw [exec, execSetopt, requireBuffer, require_pos (life_ne_empty_iff.mpr h)]
    exact ok_passesLifecycle _ s
  | encode =>
    rw [exec, execEncode, requireBuffer, require_pos (life_ne_empty_iff.mpr h)]
    exact ok_passesLifecycle _ s
  | start =>
    rw [exec_start h]
    exact calls_passLifecycle (b := { s with scan := 0 }) rfl fun _ => forward_effect
  | wait => rw [exec_wait h]; exact calls_passLifecycle rfl fun _ => forward_effect
  | cleanup => rw [exec_cleanup h]; exact calls_passLifecycle rfl fun _ => forward_effect

/-! ### What stands after a command that answers `ERR` (R135, R144) -/

/-- An error of a command is raised in the state it started from, or is the adapter's failure; that one leaves what INIT has
committed, and otherwise the registers as they were. -/
theorem Effect.of_err {s t : State} (h : Effect s t) {es : List Event} {e : Err}
    (ht : t.trace = s.trace ++ es ++ [.response (.err e)]) :
    (es = [] ∧ t = raise e s) ∨
    ∃ sig, e = .adapterFailure sig ∧
      (s.life ≠ .empty → ∃ tr a n, t = raise e { s with trace := tr, adapter := a, scan := n }) := by
  cases h with
  | raised e' _ =>
    obtain ⟨rfl, he⟩ := trace_last (tr := s.trace) (fs := []) (by simpa using ht)
    cases he
    exact .inl ⟨rfl, rfl⟩
  | inited o n dz d1 f rd t hl _ hc =>
    obtain ⟨sig, a, he, -⟩ := hc.of_err ht
    exact .inr ⟨sig, he, fun hl' => absurd hl hl'⟩
  | started t _ hc =>
    obtain ⟨sig, a, he, ht⟩ := hc.of_err ht
    exact .inr ⟨sig, he, fun _ => ⟨_, a, 0, ht⟩⟩
  | forwarded t _ hc =>
    obtain ⟨sig, a, he, ht⟩ := hc.of_err ht
    exact .inr ⟨sig, he, fun _ => ⟨_, a, s.scan, ht⟩⟩
  | created | pixel | option | encoded => exact absurd ht (respond_ok_trace_ne _ _ _)

/-- Settles O39: the table's refusals stand first, and behind them no other check of a command looks at `LIFE`. -/
theorem lifecycleTable : Obligations.LifecycleTable := by
  intro i s hw
  refine ⟨exec_answersErr_of_not_allowed hw, fun ha t es l h ht => ?_⟩
  rcases (exec_effect h).of_err ht with ⟨-, rfl⟩ | ⟨sig, he, -⟩
  · exact exec_passesLifecycle ha l h
  · cases he

/-- Settles O40: an error is a raise in the state as it was, or the adapter's failure behind its calls. -/
theorem errorChangesOnlyFault : Obligations.ErrorChangesOnlyFault := by
  intro i s t es e h ht
  rcases (exec_effect h).of_err ht with ⟨rfl, rfl⟩ | ⟨sig, rfl, registers⟩
  · refine ⟨fun _ => ⟨rfl, h ▸ answersErr_raise e s⟩, fun _ => ?_⟩
    rw [← stickyFault_eq]
    rfl
  · refine ⟨fun hn => absurd rfl (hn sig), fun hl => ?_⟩
    obtain ⟨tr, a, n, rfl⟩ := registers hl
    rw [← stickyFault_eq]
    rfl

/-! ### `FAULT` (R140) -/

/-- From `s` to `t` the block went on, without a reset, and `FAULT` follows what has been emitted. -/
inductive FaultFollows (s t : State) : Prop
  /-- An error comes last, and its cause is taken. -/
  | raised (es : List Event) (e : Err) (ht : t.trace = s.trace ++ es ++ [.response (.err e)])
      (hf : t.fault = stickyFault s.fault e.cause)
  /-- Nothing is emitted, or something else comes last. -/
  | kept (es : List Event) (hl : ∀ e, es.getLast? ≠ some (.response (.err e))) (ht : t.trace = s.trace ++ es)
      (hf : t.fault = s.fault)

theorem faultFollows_of_silent {s t : State} (ht : t.trace = s.trace) (hf : t.fault = s.fault) : FaultFollows s t :=
  .kept [] (by simp) (by simp [ht]) hf

theorem faultFollows_of_event {s t : State} {x : Event} (hx : ∀ e, x ≠ .response (.err e)) (ht : t.trace = s.trace ++ [x])
    (hf : t.fault = s.fault) : FaultFollows s t :=
  .kept [x] (by simpa using hx) ht hf

theorem Effect.faultFollows {s t : State} (h : Effect s t) : FaultFollows s t := by
  obtain ⟨es, e, ht, hf⟩ | ⟨es, ht, hf⟩ | ⟨cs, ht, hf⟩ := h.emitted
  · exact .raised es e ht hf
  · exact .kept (es ++ [.response .ok]) (by simp) (ht.trans (List.append_assoc ..)) hf
  · refine .kept _ (fun e he => ?_) ht hf
    obtain ⟨es, h⟩ := List.getLast?_eq_some_iff.mp he
    exact calls_ne_response h

theorem BeginEffect.faultFollows {s t : State} (h : BeginEffect s t) : FaultFollows s t := by
  cases h with
  | whole t he => exact he.faultFollows
  | frame => exact faultFollows_of_silent rfl rfl
  | call c => exact faultFollows_of_event (x := .call c) nofun rfl rfl
  | init => exact faultFollows_of_event (x := .call .initialise) nofun rfl rfl

theorem AdvanceEffect.faultFollows {s t : State} (h : AdvanceEffect s t) : FaultFollows s t := by
  cases h with
  | stay | byte | waiting | completed => exact faultFollows_of_silent rfl rfl
  | frameOut => exact faultFollows_of_event (x := .frame s.frame) nofun rfl rfl
  | frameSent => exact faultFollows_of_event (x := .call (.send s.frame)) nofun rfl rfl
  | configured => exact faultFollows_of_event (x := .call (.configurePattern s.pattern)) nofun rfl rfl
  | responded | awaited => exact faultFollows_of_event (x := .response .ok) nofun rfl rfl
  | failed c sig | awaitFailed sig => exact .raised [] (.adapterFailure sig) (by simp) rfl

/-- Taking inputs emits nothing and leaves `FAULT` alone. -/
theorem FaultFollows.of_inputs {s t : State} {ins : List Input} (h : FaultFollows { s with inputs := ins } t) :
    FaultFollows s t := by
  cases h with
  | raised es e ht hf => exact .raised es e ht hf
  | kept es hl ht hf => exact .kept es hl ht hf

/-- A step takes a reset, or `FAULT` follows what it emits. -/
theorem StepEffect.faultFollows {s t : State} (h : StepEffect s t) :
    FaultFollows s t ∨
    ∃ (ws : List Word) (rest : List Input),
      s.inputs = ws.map Input.word ++ .reset :: rest ∧ t = resetBlock { s with inputs := rest } := by
  cases h with
  | command i ins t _ he => exact .inl (exec_effect he).faultFollows.of_inputs
  | began i ins t _ he => exact .inl (begin_effect he).faultFollows.of_inputs
  | advanced ins t _ he => exact .inl he.faultFollows.of_inputs
  | illegal w rest _ => exact .inl (.raised [] (.illegalCommand w) (by simp) rfl)
  | reset ws rest hi => exact .inr ⟨ws, rest, hi, rfl⟩
  | adapter | stay => exact .inl (faultFollows_of_silent rfl rfl)

/-- Settles O41: a raise takes the sticky cause, everything else but a reset leaves `FAULT`, and a reset emits nothing. -/
theorem faultIsSticky : Obligations.FaultIsSticky := by
  intro s t h
  rcases (step_effect h).faultFollows with h | ⟨ws, rest, hi, rfl⟩
  · cases h with
    | raised es e ht hf =>
      refine ⟨fun es' e' ht' => ?_, fun es' ht' => ?_, fun hs hne => ?_⟩
      · obtain ⟨-, he⟩ := trace_last (ht.symm.trans ht')
        cases he
        rw [hf, stickyFault_eq]
      · obtain ⟨-, he⟩ := trace_last (ht.symm.trans ht')
        cases he
      · rw [hf, stickyFault_eq, if_neg hs] at hne
        exact absurd rfl hne
    | kept es hl ht hf =>
      refine ⟨fun es' e ht' => ?_, fun _ _ => hf, fun _ hne => absurd hf hne⟩
      rw [ht, List.append_assoc] at ht'
      exact absurd (List.append_cancel_left ht' ▸ List.getLast?_concat) (hl e)
  · have silent (es : List Event) (x : Event) : (resetBlock { s with inputs := rest }).trace ≠ s.trace ++ es ++ [x] := by
      simp
    exact ⟨fun es _ ht => absurd ht (silent es _), fun es ht => absurd ht (silent es _),
      fun _ _ => ⟨rfl, ws, rest, hi, rfl⟩⟩

/-! ### Where the machine stops (R144, R145; 43_facade_adapter R126) -/

/-- The outcome `o` is a next state, or the refusal of a call that the adapter `a` refuses by the reference rule. -/
def StopsOnlyByRule (a : Adapter) (o : Out) : Prop :=
  (∃ t, o = .next t) ∨ ∃ c r answers, o = .refused (.adapterOrder c) ∧ a = .reference r answers ∧ r.call c = .refuse

theorem next_stopsOnlyByRule (a : Adapter) (t : State) : StopsOnlyByRule a (.next t) := .inl ⟨t, rfl⟩

theorem refused_stopsOnlyByRule {a : Adapter} {c : AdpCall} (h : a.call c = .refuse) :
    StopsOnlyByRule a (.refused (.adapterOrder c)) := by
  obtain ⟨r, answers, ha, hr⟩ := call_refuse h
  exact .inr ⟨c, r, answers, rfl, ha, hr⟩

theorem require_stopsOnlyByRule {a : Adapter} {k : Out} (hk : StopsOnlyByRule a k) (c : Prop) [Decidable c] (e : Err)
    (s : State) : StopsOnlyByRule a (require c e s k) := by
  rcases require_cases c e s k with ⟨-, h⟩ | ⟨-, h⟩ <;> rw [h]
  · exact hk
  · exact next_stopsOnlyByRule a _

theorem withConstructor_stopsOnlyByRule {a : Adapter} {k : ChannelOrder → Nat → Out} (hk : ∀ o m, StopsOnlyByRule a (k o m))
    (ord : BitVec 3) (n : Int) (s : State) : StopsOnlyByRule a (withConstructor ord n s k) := by
  rcases withConstructor_cases ord n s k with ⟨e, -, h⟩ | ⟨o, -, -, -, -, h⟩ <;> rw [h]
  · exact next_stopsOnlyByRule a _
  · exact hk o _

theorem setPixel_stopsOnlyByRule (a : Adapter) (index : Int) (c : PixelColor) (s : State) :
    StopsOnlyByRule a (setPixel index c s) :=
  require_stopsOnlyByRule (require_stopsOnlyByRule (next_stopsOnlyByRule a _) _ _ s) _ _ s

theorem takeAnswer_stopsOnlyByRule {c : AdpCall} {s : State} {k : State → Out}
    (hk : ∀ b, s.adapter.call c = .ok b → StopsOnlyByRule s.adapter (k { s with adapter := b })) :
    StopsOnlyByRule s.adapter (takeAnswer c s k) := by
  rcases takeAnswer_cases c s k with ⟨b, hb, h⟩ | ⟨_, _, -, h⟩ | ⟨_, -, -, h⟩ | ⟨-, -, -, h⟩ | ⟨-, hr, h⟩ <;> rw [h]
  · exact hk b hb
  · exact next_stopsOnlyByRule _ _
  · exact next_stopsOnlyByRule _ _
  · exact next_stopsOnlyByRule _ _
  · exact refused_stopsOnlyByRule hr

theorem forward_stopsOnlyByRule (c : AdpCall) (s : State) : StopsOnlyByRule s.adapter (forward c s) :=
  takeAnswer_stopsOnlyByRule (s := s.emit (.call c)) (k := fun s => .next (respond .ok s))
    fun _ _ => next_stopsOnlyByRule _ _

theorem issue_stopsOnlyByRule (c : AdpCall) (s : State) : StopsOnlyByRule s.adapter (issue c s) := by
  unfold issue
  cases h : s.adapter.call c with
  | ok | fail | unanswered | hold => exact next_stopsOnlyByRule _ _
  | refuse => exact refused_stopsOnlyByRule h

/-- A reference adapter that an `ok` leaves is what the rule makes of one. -/
theorem call_ok_reference {a : Adapter} {c : AdpCall} {r : RefAdapter} {answers : List AdpAnswer}
    (h : a.call c = .ok (.reference r answers)) : ∃ r₀ : RefAdapter, r₀.call c = .ok r := by
  cases a with
  | oracle => cases call_ok_kind h
  | reference r₀ l =>
    rw [call_reference] at h
    cases hr : r₀.call c with
    | ok r' =>
      rcases answerFrom_cases l (.reference r') (.reference r₀) with ⟨_, h'⟩ | ⟨_, _, -, h'⟩ <;>
        simp only [hr, h'] at h <;> cases h
      exact ⟨r₀, hr⟩
    | hold | refuse => rw [hr] at h; cases h

theorem refCall_initialise_ok {r₀ r : RefAdapter} (h : r₀.call .initialise = .ok r) : r.inited = true ∧ r.torn = false := by
  simp only [RefAdapter.call] at h
  split at h <;> cases h
  exact ⟨rfl, rfl⟩

/-- An adapter that has answered `initialise` with `ok` does not refuse to be configured (43_facade_adapter R126). -/
theorem configure_not_refused {a b : Adapter} (h : a.call .initialise = .ok b) (p : Pattern) :
    b.call (.configurePattern p) ≠ .refuse := by
  intro refused
  obtain ⟨r, answers, rfl, hr⟩ := call_refuse refused
  obtain ⟨r₀, h₀⟩ := call_ok_reference h
  obtain ⟨hi, ht⟩ := refCall_initialise_ok h₀
  simp [RefAdapter.call, hi, ht] at hr

theorem forward_next {c : AdpCall} {s : State} (h : s.adapter.call c ≠ .refuse) : ∃ t, forward c s = .next t := by
  cases hc : s.adapter.call c with
  | ok a => exact ⟨_, forward_ok hc⟩
  | fail sig a => exact ⟨_, forward_fail hc⟩
  | unanswered a => exact ⟨_, forward_unanswered hc⟩
  | hold a => exact ⟨_, forward_hold hc⟩
  | refuse => exact absurd hc h

/-- Only the first call of INIT can be refused, and it meets the adapter as it was. -/
theorem initCalls_stopOnlyByRule (s : State) :
    StopsOnlyByRule s.adapter (callAdapter .initialise s fun s => forward (.configurePattern s.pattern) s) :=
  takeAnswer_stopsOnlyByRule (s := s.emit (.call .initialise)) (k := fun s => forward (.configurePattern s.pattern) s)
    fun _ hb => .inl (forward_next (configure_not_refused hb _))

theorem exec_stopsOnlyByRule (i : Instr) (s : State) : StopsOnlyByRule s.adapter (exec i s) := by
  have of_set {index : Int} (hi : pixelIndex i = some index) : StopsOnlyByRule s.adapter (exec i s) := by
    obtain ⟨c, cw, hx⟩ := exec_set hi s
    rw [hx]
    exact require_stopsOnlyByRule (setPixel_stopsOnlyByRule _ index c s) _ _ s
  cases i with
  | create ord n => exact withConstructor_stopsOnlyByRule (fun _ _ => next_stopsOnlyByRule _ _) ord (signed n) s
  | init ord n dz d1 f rd =>
    exact withConstructor_stopsOnlyByRule (fun o m => initCalls_stopOnlyByRule (s.committed o m dz d1 f rd)) ord (signed n) s
  | setpxP | setpxC | setpxA | setpxmP | setpxmC | setpxmA => exact of_set rfl
  | setopt | encode => exact require_stopsOnlyByRule (next_stopsOnlyByRule _ _) _ _ s
  | start => exact require_stopsOnlyByRule (forward_stopsOnlyByRule _ { s with scan := 0 }) _ _ s
  | wait | cleanup => exact require_stopsOnlyByRule (forward_stopsOnlyByRule _ s) _ _ s

theorem beginCommand_stopsOnlyByRule (i : Instr) (s : State) : StopsOnlyByRule s.adapter (beginCommand i s) := by
  cases i with
  | encode | start => exact require_stopsOnlyByRule (next_stopsOnlyByRule _ _) _ _ s
  | wait | cleanup => exact require_stopsOnlyByRule (issue_stopsOnlyByRule _ s) _ _ s
  | init ord n dz d1 f rd =>
    exact withConstructor_stopsOnlyByRule (fun o m => issue_stopsOnlyByRule .initialise (s.committed o m dz d1 f rd))
      ord (signed n) s
  | create | setpxP | setpxC | setpxA | setpxmP | setpxmC | setpxmA | setopt =>
    simp only [beginCommand]; exact exec_stopsOnlyByRule _ s

theorem afterAnswer_stopsOnlyByRule (c : AdpCall) (s : State) : StopsOnlyByRule s.adapter (afterAnswer c s) := by
  cases c with
  | initialise => exact issue_stopsOnlyByRule _ s
  | configurePattern | send | awaitCompletion | teardown => exact next_stopsOnlyByRule _ _

theorem deliverFrame_stopsOnlyByRule (d : Destination) (s : State) : StopsOnlyByRule s.adapter (deliverFrame d s) := by
  cases d with
  | out => exact next_stopsOnlyByRule _ _
  | adapter => exact issue_stopsOnlyByRule _ s

theorem advance_stopsOnlyByRule (s : State) : StopsOnlyByRule s.adapter (advance s) := by
  cases hp : s.port with
  | ready | unanswered | delivered => simp only [advance, hp]; exact next_stopsOnlyByRule _ _
  | serializing d =>
    simp only [advance, hp]
    split
    · exact next_stopsOnlyByRule _ _
    · exact deliverFrame_stopsOnlyByRule d s
  | calling c a =>
    simp only [advance, hp]
    cases a with
    | ok => exact afterAnswer_stopsOnlyByRule c s.close
    | fail sig => exact next_stopsOnlyByRule _ _
  | holding =>
    simp only [advance, hp]
    split
    · exact next_stopsOnlyByRule _ _
    · exact takeAnswer_stopsOnlyByRule (s := { s with port := .ready }) fun _ _ => next_stopsOnlyByRule _ _

theorem stepReady_stopsOnlyByRule (s : State) : StopsOnlyByRule s.adapter (stepReady s) := by
  unfold stepReady
  cases decode (leadingWords s.inputs) with
  | ok i rest =>
    rcases perform_cases i rest (afterWords s.inputs) s with ⟨l, -, -, h⟩ | h <;> simp only [h]
    · exact beginCommand_stopsOnlyByRule i { s with inputs := l }
    · exact exec_stopsOnlyByRule i { s with inputs := rest.map Input.word ++ afterWords s.inputs }
  | badHeader | badColour | incomplete => exact next_stopsOnlyByRule _ _

theorem stepWithin_stopsOnlyByRule (s : State) : StopsOnlyByRule s.adapter (stepWithin s) := by
  rcases stepWithin_cases s with ⟨rest, -, h⟩ | ⟨rest, -, h⟩ | ⟨ins, -, h⟩ <;> rw [h]
  · exact next_stopsOnlyByRule _ _
  · exact next_stopsOnlyByRule _ _
  · exact advance_stopsOnlyByRule { s with inputs := ins }

/-- Settles O45: between commands and inside one, only a call can stop, and only by the adapter's own rule. -/
theorem stopsOnlyAtReferenceAdapter : Obligations.StopsOnlyAtReferenceAdapter := by
  intro s
  by_cases hp : s.port = .ready
  · rw [step_ready hp]; exact stepReady_stopsOnlyByRule s
  · rw [step_within hp]; exact stepWithin_stopsOnlyByRule s

end Sys2Proof.Machine
end

section
/-! PROOFS. Which commands respond, and what a reset finds and leaves (70_reset_and_hazards R160, R162, R172). -/

namespace Sys2Proof.Machine

/-! ### Which commands respond (R172; 60_exceptions R149) -/

/-- A command that is no WAIT is over with its response. -/
theorem Emission.responded {i : Instr} {s t : State} (h : Emission i s t) (hi : i ≠ .wait) :
    t.port = s.port ∧ ∃ es r, t.trace = s.trace ++ es ++ [.response r] := by
  cases h with
  | answered r hp ht => exact ⟨hp, [], r, by rwa [List.append_nil]⟩
  | framed r _ hp ht => exact ⟨hp, _, r, ht⟩
  | called cs r _ hp ht => exact ⟨hp, _, r, ht⟩
  | waiting hw => exact absurd hw hi

/-- A forwarded call leaves the block waiting exactly if the adapter never answers it or holds it. -/
theorem forward_waits_iff {c : AdpCall} {s t : State} (hs : s.port = .ready) (h : forward c s = .next t) :
    t.port ≠ .ready ↔ ∃ a, s.adapter.call c = .unanswered a ∨ s.adapter.call c = .hold a := by
  cases hc : s.adapter.call c with
  | ok a => rw [forward_ok hc] at h; cases h; simp [hs]
  | fail sig a => rw [forward_fail hc] at h; cases h; simp [hs]
  | unanswered a => rw [forward_unanswered hc] at h; cases h; simp
  | hold a => rw [forward_hold hc] at h; cases h; simp
  | refuse =>
    obtain ⟨r, answers, ha, hr⟩ := call_refuse hc
    rw [(forward_refused_iff ha).mpr hr] at h
    cases h

/-- Settles O44: what a command emits ends with a response unless it is a WAIT, which is one forwarded call. -/
theorem everyCommandButWaitResponds : Obligations.EveryCommandButWaitResponds := by
  intro i s t hs h
  refine ⟨fun hi => ?_, ?_⟩
  · obtain ⟨hp, responded⟩ := (exec_emission hs h).responded hi
    exact ⟨hp.trans hs, responded⟩
  · rintro rfl hl
    exact forward_waits_iff hs ((exec_wait hl).symm.trans h)

/-! ### An asserted reset (R160, R162) -/

/-- Between commands and inside an incomplete one, a reset behind the words not yet consumed. -/
theorem step_incomplete_reset {s : State} {ws : List Word} {rest : List Input} (hp : s.port = .ready)
    (hd : decode ws = .incomplete) (hi : s.inputs = ws.map Input.word ++ .reset :: rest) :
    step s = .next (resetBlock { s with inputs := rest }) := by
  have waiting : leadingWords s.inputs = ws := by rw [hi, leadingWords_append]; exact List.append_nil ws
  have behind : afterWords s.inputs = .reset :: rest := by rw [hi, afterWords_append, afterWords_of_no_word rfl]
  rw [step_ready hp, stepReady, waiting, hd, behind, idle]

/-- Settles O53: wherever it lands, the step is `resetBlock` with the inputs behind the reset. -/
theorem resetRestoresRegisters : Obligations.ResetRestoresRegisters := by
  intro s ws rest hi hplace
  have reset : step s = .next (resetBlock { s with inputs := rest }) := by
    rcases hplace with ⟨hp, hd⟩ | ⟨hp, rfl⟩
    · exact step_incomplete_reset hp hd hi
    · exact step_reset hp hi
  exact ⟨_, reset, by simp⟩

/-! ### Pieces with a `tick` each, and then a reset (42_encode_serializer R105) -/

theorem steps_succ {n : Nat} {s t : State} (h : step s = .next t) : steps (n + 1) s = steps n t := by
  rw [steps, h]

theorem steps_succ_last {n : Nat} {s t : State} (h : steps n s = .next t) : steps (n + 1) s = step t := by
  induction n generalizing s with
  | zero =>
    cases h
    rw [steps]
    cases step t <;> rfl
  | succ n ih =>
    cases hs : step s with
    | next u => rw [steps_succ hs] at h ⊢; exact ih h
    | fault r => exact nomatch r
    | refused r => rw [steps, hs] at h; cases h

/-- A command with a `tick` behind its words is begun. -/
theorem step_begins {s : State} {i : Instr} {rest : List Input} (hp : s.port = .ready) (hw : i.wellFormed = true)
    (hi : s.inputs = (encode i).map Input.word ++ .tick :: rest) : step s = beginCommand i { s with inputs := rest } :=
  (presentedCommandRuns s i (.tick :: rest) hp hw hi).2 rest rfl

/-- Inside a command a `tick` asks for the next piece. -/
theorem step_tick {s : State} {rest : List Input} (hp : s.port ≠ .ready) (hi : s.inputs = .tick :: rest) :
    step s = advance { s with inputs := rest } := by
  rw [step_within hp, stepWithin, hi]

/-- A reset behind `n` steps that end inside a command. -/
theorem steps_reset {n : Nat} {s t : State} {tail : List Input} (h : steps n s = .next t) (hp : t.port ≠ .ready)
    (hi : t.inputs = .reset :: tail) : steps (n + 1) s = .next (resetBlock { t with inputs := tail }) := by
  rw [steps_succ_last h, step_reset hp hi]

/-! ### ENCODE and START: the bytes, and the frame (42_encode_serializer R103, 43_facade_adapter R112) -/

/-- Each `tick` is one more byte, up to the last. -/
theorem steps_serializing {s : State} {d : Destination} {j k : Nat} (rest : List Input) (hk : k + j ≤ 3 * s.num) :
    steps j (({ s with inputs := List.replicate j .tick ++ rest } : State).serializing d k) =
      .next (({ s with inputs := rest } : State).serializing d (k + j)) := by
  induction j generalizing k with
  | zero => rfl
  | succ j ih =>
    have next_byte : k < 3 * s.num := by omega
    have byte : step (({ s with inputs := List.replicate (j + 1) .tick ++ rest } : State).serializing d k) =
        .next (({ s with inputs := List.replicate j .tick ++ rest } : State).serializing d (k + 1)) := by
      rw [step_tick (by simp [State.serializing]) rfl]
      exact advance_serializing (s := { s with inputs := List.replicate j .tick ++ rest }) next_byte
    rw [steps_succ byte, ih (by omega), Nat.add_right_comm, Nat.add_assoc]

/-- A command that begins a frame stands behind its `k`-th byte after `k` ticks. -/
theorem steps_of_beginFrame {s : State} {d : Destination} {k : Nat} {rest : List Input} (hk : k ≤ 3 * s.num)
    (h : step s = beginFrame d { s with inputs := List.replicate k .tick ++ rest }) :
    steps (k + 1) s =
      .next { s with inputs := rest, port := .serializing d, scan := k, frame := (microRun s k).frame } := by
  have bytes := steps_serializing (s := s) (d := d) (j := k) (k := 0) rest (by omega)
  rw [Nat.zero_add] at bytes
  rw [steps_succ h, microRun_eq s hk]
  exact bytes

/-- One `tick` behind the last byte delivers the whole frame. -/
theorem steps_of_beginFrame_whole {s : State} {d : Destination} {k : Nat} {rest : List Input} (hk : k = 3 * s.num + 1)
    (h : step s = beginFrame d { s with inputs := List.replicate k .tick ++ rest }) :
    steps (k + 1) s =
      deliverFrame d { s with inputs := rest, port := .serializing d, scan := 3 * s.num, frame := s.encodedFrame } := by
  subst hk
  rw [List.replicate_succ', List.append_assoc] at h
  rw [steps_succ_last (steps_of_beginFrame (Nat.le_refl _) h), step_tick (by simp) rfl, microRun_eq s (Nat.le_refl _),
    encodedFrame_eq]
  exact advance_serialized { s with inputs := rest } d

/-- A reset behind `k` bytes finds them, and leaves no frame and no response. -/
theorem reset_of_beginFrame {s : State} {d : Destination} {k : Nat} {tail : List Input} (hk : k ≤ 3 * s.num)
    (h : step s = beginFrame d { s with inputs := List.replicate k .tick ++ .reset :: tail }) :
    steps (k + 1) s = .next { s with
      inputs := .reset :: tail, port := .serializing d, scan := k, frame := (microRun s k).frame } ∧
    steps (k + 2) s = .next (resetBlock { s with inputs := tail }) := by
  have found := steps_of_beginFrame hk h
  have left := steps_reset found (by simp) rfl
  exact ⟨found, left⟩

/-! ### INIT: the first call, and both (43_facade_adapter R111) -/

/-- The first piece of a legal INIT whose first call is answered `ok`. -/
theorem step_init {s : State} {ord : BitVec 3} {o : ChannelOrder} {n dz d1 f rd : Word} {a : Adapter} {rest : List Input}
    (hp : s.port = .ready) (hl : s.life = .empty) (ho : ChannelOrder.ofCode ord = some o) (h0 : 0 ≤ n.toInt)
    (hn : n.toInt ≤ s.cfg.nMax.val) (ha : s.adapter.call .initialise = .ok a)
    (hi : s.inputs = (encode (.init ord n dz d1 f rd)).map Input.word ++ .tick :: rest) :
    step s = .next { s.committed o n.toInt.toNat dz d1 f rd with
      inputs := rest, adapter := a, trace := s.trace ++ [.call .initialise], port := .calling .initialise .ok } := by
  rw [step_begins hp rfl hi, beginCommand,
    withConstructor_ok (s := { s with inputs := rest }) (n := signed n) hl ho h0 hn]
  exact issue_ok (s := { s.committed o n.toInt.toNat dz d1 f rd with inputs := rest }) ha

/-- The second piece is the second call. -/
theorem step_initialised {s : State} {a : Adapter} {rest : List Input} (hp : s.port = .calling .initialise .ok)
    (hi : s.inputs = .tick :: rest) (ha : s.adapter.call (.configurePattern s.pattern) = .ok a) :
    step s = .next { s.close with
      inputs := rest, adapter := a, trace := s.trace ++ [.call (.configurePattern s.pattern)]
      port := .calling (.configurePattern s.pattern) .ok } := by
  rw [step_tick (by simp [hp]) hi, advance, hp]
  exact issue_ok (s := { s.close with inputs := rest }) ha

/-- Settles O49: the pieces up to the reset, command by command; a reset keeps of them what was emitted and what the adapter
did. -/
theorem resetInsideACommand : Obligations.ResetInsideACommand := by
  refine ⟨fun s k tail hp hl hi => ?_, fun s k tail hp hl hi => ?_,
    fun s ord n dz d1 f rd o a₁ tail hp hl ho h0 hn ha₁ => ⟨fun hi => ?_, fun a₂ ha₂ hi => ?_⟩⟩
  · have begins : step s = beginFrame .out { s with inputs := List.replicate k .tick ++ .reset :: tail } :=
      (step_begins (i := .encode) hp rfl hi).trans (require_pos hl _ _ _)
    refine ⟨fun hk => reset_of_beginFrame hk begins, fun hk => ?_⟩
    have found := steps_of_beginFrame_whole hk begins
    exact ⟨found, steps_reset found (by simp) rfl⟩
  · have begins : step s = beginFrame .adapter { s with inputs := List.replicate k .tick ++ .reset :: tail } :=
      (step_begins (i := .start) hp rfl hi).trans (require_pos hl _ _ _)
    refine ⟨fun hk => reset_of_beginFrame hk begins, fun a hk ha => ?_⟩
    have found := (steps_of_beginFrame_whole hk begins).trans (issue_ok ha)
    exact ⟨found, steps_reset found (by simp) rfl⟩
  · have first := steps_succ (n := 0) (step_init hp hl ho h0 hn ha₁ hi)
    exact steps_reset first (by simp) rfl
  · have first := steps_succ (n := 0) (step_init hp hl ho h0 hn ha₁ hi)
    have second := (steps_succ_last first).trans (step_initialised rfl rfl ha₂)
    have left := steps_reset second (by simp) rfl
    rw [List.append_cons]
    exact left

end Sys2Proof.Machine
end
